-- ==== Sys2Proof/Word.lean ====
section
/-! DEFINITION. The widths STG works in: bus words, bytes, window offsets, and the byte strings of R11. -/

namespace Sys2Proof

/-- A bus word and a register: 32 bits, unsigned (00_scope.md R6, R9). -/
abbrev Word := BitVec 32

/-- A byte of a byte string (00_scope.md R11). -/
abbrev Byte := BitVec 8

/-- A byte offset into the 4096-byte register window (20_memory.md R50). -/
abbrev Offset := BitVec 12

/-- A digest: 20 bytes, DIGEST_BYTES of 00_scope.md R5. -/
abbrev Digest := Vector Byte 20

/-- The HMAC message: 8 bytes, CTR_BYTES of 00_scope.md R5. -/
abbrev Message := Vector Byte 8

end Sys2Proof
end

