-- ==== Sys2Proof/Config.lean ====
section
/-! DEFINITION. What an implementation of STG fixes, and the values the spec leaves open (00_scope.md R6,
41_keyed_hash.md R120, 60_exceptions.md R216). -/

namespace Sys2Proof

/-- The parameter KEY_MAX of 00_scope.md R6, carried in the state so that every statement about every state
quantifies over it: "A model takes each one as an argument". DESIGN CHOICE (log 4); safe in statements over all
states. -/
structure Config where
  /-- KEY_MAX: the largest key length, in bytes, that STG can hold. -/
  keyMax : Nat
  deriving DecidableEq, Repr

/-- One value of the clock port (60_exceptions.md R215): `rtc_valid` and `rtc_seconds[63:0]`. -/
structure ClockSample where
  /-- `rtc_valid`: the platform clock holds a time at or after the Unix epoch. -/
  valid : Bool
  /-- `rtc_seconds`: whole seconds since the epoch, meaningful when valid. -/
  seconds : BitVec 64
  deriving DecidableEq, Repr, Inhabited

/-- The deferred library function `hmacSha1` (41_keyed_hash.md R120), uninterpreted: it has no body. Its type is
HMAC-LEN (20 bytes), its totality HMAC-TOTAL, and its being a function of key and message HMAC-FUN; nothing else
may be assumed of it. Log 5; safe. -/
opaque Config.hmacSha1 : List Byte → Message → Digest

/-- The environment's clock value at the n-th sample for which the state lists no draw: a free value under no law
(60_exceptions.md R216; 93_implementation_defined.md item 5). It has no body. Log 2; safe. -/
opaque Config.clockDraw : Nat → ClockSample

end Sys2Proof
end

