-- ==== Sys2Proof/Syntax.lean ====
section
/-! DEFINITION. The commands of STG, one constructor for each row of the opcode map (30_encoding.md R73), and
the two ways a CMD word fails to name one. No command has an operand field (R72). -/

namespace Sys2Proof

/-- A command (30_encoding.md R73). -/
inductive Instr where
  /-- OP 0x00: complete with no effect (R160). -/
  | nop
  /-- OP 0x01: STEP gets the time step of TIME (R101). -/
  | step
  /-- OP 0x02: DIGEST gets the keyed hash of STEP (R123). -/
  | hmac
  /-- OP 0x03: OFFSET and TRUNC get the dynamic truncation of DIGEST (R125). -/
  | trunc
  /-- OP 0x04: CODEIDX, CODE_LO and CODE_HI get the code of TRUNC (R141). -/
  | encode
  /-- OP 0x05: the code for the time in TIME (R161). -/
  | genTime
  /-- OP 0x06: the code for the current clock time (R162). -/
  | genNow
  /-- OP 0x07: TIME gets the clock sample (R102). -/
  | readClock
  deriving DecidableEq, Repr

/-- Why a CMD word is `Bad` (30_encoding.md R75). The machine reports both as BAD_CMD. -/
inductive DecodeError where
  /-- RSVD[31:8] is not 0 (R75), whatever OP is. -/
  | reservedBits
  /-- OP is in 0x08 to 0xFF (R74). -/
  | reservedOpcode
  deriving DecidableEq, Repr

end Sys2Proof
end

