-- ==== Sys2Proof/WellFormed.lean ====
section
/-! DEFINITION. What is well formed: a command (always, for none has an operand field), a configuration, a bus
access, and the key bytes a host script may load. -/

namespace Sys2Proof

/-- Every command is well formed: 30_encoding.md R72 gives none an immediate, a register number or a mode field
that could be out of range. -/
def Instr.wf : Instr → Bool
  | .nop => true
  | .step => true
  | .hmac => true
  | .trunc => true
  | .encode => true
  | .genTime => true
  | .genNow => true
  | .readClock => true

/-- The legal values of KEY_MAX (00_scope.md R6): "It must be a multiple of 4 with 20 ≤ KEY_MAX ≤ 1024". -/
def Config.wf (c : Config) : Bool :=
  c.keyMax % 4 == 0 && decide (20 ≤ c.keyMax) && decide (c.keyMax ≤ 1024)

/-- An access the window accepts: 4 bytes wide and aligned (20_memory.md R51, R52). -/
def accessWf (off : Offset) (width : Nat) : Bool :=
  width == 4 && off.toNat % 4 == 0

/-- A key the store can hold (70_reset_and_hazards.md R242 step 3: "n ≤ KEY_MAX"). -/
def keyWf (c : Config) (bytes : List Byte) : Bool :=
  decide (bytes.length ≤ c.keyMax)

end Sys2Proof
end

