-- ==== Sys2Proof/Decode.lean ====
section
/-! DEFINITION. CMD32 (30_encoding.md R70 to R75): the decoder, total on all 2^32 words, and the encoder, both
from the opcode map of R73. -/

namespace Sys2Proof

/-- The OP field, bits [7:0] of a CMD word (30_encoding.md R71). -/
def opField (w : Word) : BitVec 8 := w.extractLsb' 0 8

/-- The RSVD field, bits [31:8] of a CMD word (30_encoding.md R71). -/
def rsvdField (w : Word) : BitVec 24 := w.extractLsb' 8 24

/-- The decoder of 30_encoding.md R75: RSVD is looked at first, so a defined OP does not rescue a word whose RSVD
is not 0. -/
def decode (w : Word) : Except DecodeError Instr :=
  if rsvdField w ≠ 0 then .error .reservedBits
  else match (opField w).toNat with
    | 0x00 => .ok .nop
    | 0x01 => .ok .step
    | 0x02 => .ok .hmac
    | 0x03 => .ok .trunc
    | 0x04 => .ok .encode
    | 0x05 => .ok .genTime
    | 0x06 => .ok .genNow
    | 0x07 => .ok .readClock
    | _ => .error .reservedOpcode

/-- The CMD word of a command: the column "word" of 30_encoding.md R73. -/
def encode : Instr → Word
  | .nop => 0x00000000
  | .step => 0x00000001
  | .hmac => 0x00000002
  | .trunc => 0x00000003
  | .encode => 0x00000004
  | .genTime => 0x00000005
  | .genNow => 0x00000006
  | .readClock => 0x00000007

/-- The CMD word whose low `nbits` bits are those of `w`, the bits above them 0. -/
def tableWord (nbits w : Nat) : Word := BitVec.ofNat 32 (w % 2 ^ min nbits 32)

/-- The command the decoder reads from a word given as a number, numbered as opcode_table.json numbers its bits.
A CMD word is one 32-bit bus word (R70), so no byte order comes in. -/
def decodeTableWord (nbits w : Nat) : Option Instr :=
  match decode (tableWord nbits w) with
  | .ok i => some i
  | .error _ => none

end Sys2Proof
end

