-- ==== Sys2Proof/Machine/State.lean ====
section
/-! DEFINITION. The state of STG (10_state.md), the moves of the three agents (00_scope.md R7), the ways a step
can stop (R8), and the state after reset (10_state.md R36). -/

namespace Sys2Proof.Machine

/-- The fields of STATUS (10_state.md R23). Its reserved bits read 0 and ignore writes, so they are not stored. -/
structure Status where
  /-- Bit 0: a command is in flight. -/
  busy : Bool
  /-- Bit 1: a command has completed. -/
  done : Bool
  /-- Bit 2: the last completed command failed. -/
  err : Bool
  /-- Bit 3, sticky, cleared by writing 1: a host write was ignored. -/
  ign : Bool
  /-- Bit 4, sticky: a clock error. Cleared by reset alone. -/
  fault : Bool
  /-- Bits [11:8]: the error code of the last completed command (R201). -/
  errCode : BitVec 4
  deriving DecidableEq, Repr

/-- The sequencer's hidden state (10_state.md R34). -/
inductive Seq where
  /-- IDLE. -/
  | idle
  /-- INFLIGHT(cmd): the 32-bit CMD word that was accepted. -/
  | inflight (cmd : Word)
  deriving DecidableEq, Repr

/-- A byte array held sparsely: the (index, byte) pairs of its nonzero bytes, indices strictly rising. An index
that is not listed reads 0, the reset content of KEY (10_state.md R36). -/
abbrev Memory := List Host.Cell

/-- One move of one agent (00_scope.md R7). The model's own type: the spec's agents interleave in one total order
(20_memory.md R61), and the state lists the moves to come. DESIGN CHOICE (log 1); safe. -/
inductive Event where
  /-- The host's bus read of `width` bytes at `off`. -/
  | read (off : Offset) (width : Nat)
  /-- The host's bus write of `data` at `off`, with `width` bytes enabled. -/
  | write (off : Offset) (width : Nat) (data : Word)
  /-- A turn of the sequencer: it completes the command in flight, if there is one. -/
  | sequencer
  /-- The environment asserts reset. -/
  | reset
  deriving DecidableEq, Repr

/-- The state of the machine: every register of 10_state.md R21, the sequencer (R34), the parameter KEY_MAX (R6),
and, at the end, the model's own fields for what the other two agents do. -/
structure State where
  /-- The implementation's parameter KEY_MAX (00_scope.md R6). No step writes it. -/
  cfg : Config
  /-- STATUS, offset 0x004 (R23). -/
  status : Status
  /-- TIME, offset 0x008 (R24). -/
  time : Word
  /-- KEYLEN, offset 0x00C (R25): all 32 bits as written. -/
  keyLen : Word
  /-- STEP, offset 0x010 (R26). -/
  step : Word
  /-- TRUNC.VAL, offset 0x014 bits [30:0] (R30); bit 31 is hard-wired 0. -/
  trunc : BitVec 31
  /-- OFFSET.OFF, offset 0x018 bits [3:0] (R29). -/
  offset : BitVec 4
  /-- CODEIDX, offset 0x01C bits [24:0] (R31): IDX0 in the lowest five bits. -/
  codeIdx : BitVec 25
  /-- CODE_LO, offset 0x020 (R32): CH0 in the lowest byte. -/
  codeLo : Word
  /-- CODE_HI.CH4, offset 0x024 bits [7:0] (R33). -/
  codeHi : Byte
  /-- DIGEST[0..19], offsets 0x040 to 0x053 (R28). -/
  digest : Digest
  /-- KEY[0..KEY_MAX-1], offsets 0x400 onward (R27): the cell at index i is KEY[i]. -/
  key : Memory
  /-- The sequencer (R34). -/
  seq : Seq
  /-- The model's own: the coming moves of the three agents, next first (log 1). -/
  schedule : List Event
  /-- The model's own: the words host reads returned, oldest first (log 6). -/
  reads : List Word
  /-- The model's own: the clock values the environment presents at the coming samples, next first (log 2). -/
  draws : List ClockSample
  /-- The model's own: how many samples took the free value `Config.clockDraw` (log 2). -/
  drawCount : Nat
  deriving DecidableEq, Repr

/-- Why a step stops with a fault (00_scope.md R8). -/
inductive Fault where
  /-- A host access that is not 4 bytes wide, or not aligned (20_memory.md R53). Raised by a bus read or write;
  the access changes no state. Safe: the machine stops where the spec says a model faults. -/
  | busError (off : Offset) (width : Nat)
  /-- CLOCK (60_exceptions.md R204; 90_conflicts.md C6): READ_CLOCK or GEN_NOW drew a sample with valid = 0.
  Raised by those two commands; `after` is the state the hardware holds then, with FAULT latched (log 3). Safe:
  the run ends here, as R204 asks, and nothing is lost, for `after` is the state R165 gives. -/
  | clockError (after : State)
  deriving DecidableEq, Repr

/-- Why a step has no meaning. -/
inductive Refusal where
  /-- A command without a meaning yet. Raised by no arm of `exec`: every command is modelled. Safe. -/
  | notModelled (mnemonic : String)
  deriving DecidableEq, Repr

/-- STATUS after reset: every field 0 (10_state.md R36). -/
def Status.cleared : Status :=
  { busy := false, done := false, err := false, ign := false, fault := false, errCode := 0 }

/-- A block with parameter `c` right after reset (10_state.md R36; 70_reset_and_hazards.md R240): every register
and field 0, KEY and DIGEST zeroed, `seq = IDLE`. Nothing is scheduled, read or drawn. -/
def State.resetWith (c : Config) : State :=
  { cfg := c, status := Status.cleared, time := 0, keyLen := 0, step := 0, trunc := 0, offset := 0,
    codeIdx := 0, codeLo := 0, codeHi := 0, digest := Vector.replicate 20 0, key := [], seq := .idle,
    schedule := [], reads := [], draws := [], drawCount := 0 }

/-- The machine right after reset, for the instance KEY_MAX = 64 of the spec's examples (00_scope.md R6). The
instance is a DESIGN CHOICE (log 4); unsafe only for a statement about this one state. -/
def State.reset : State := State.resetWith { keyMax := 64 }

end Sys2Proof.Machine
end

