-- ==== Sys2Proof/Machine/Flags.lean ====
section
/-! DEFINITION. Every change of STATUS the spec gives (10_state.md R23): acceptance (43_orchestration.md R164),
completion with and without an error (R165), the sticky IGN bit (20_memory.md R57), the error codes
(60_exceptions.md R201), and the word a read of STATUS returns. -/

namespace Sys2Proof.Machine

/-- The errors a command can raise: "A model's error type has exactly the raisable constructors"
(60_exceptions.md R201). -/
inductive CmdError where
  /-- The CMD word decodes to Bad (R202). -/
  | badCmd
  /-- KEYLEN > KEY_MAX (R203). -/
  | keySetup
  /-- The clock port had no valid time when sampled (R204). -/
  | clock
  deriving DecidableEq, Repr

/-- The ERRCODE of an error (60_exceptions.md R201). -/
def CmdError.code : CmdError → BitVec 4
  | .badCmd => 1
  | .keySetup => 2
  | .clock => 3

/-- STATUS after acceptance (43_orchestration.md R164): IGN and FAULT unchanged. -/
def Status.accepted (st : Status) : Status :=
  { st with busy := true, done := false, err := false, errCode := 0 }

/-- STATUS after a completion whose outcome is Ok (43_orchestration.md R165). -/
def Status.succeeded (st : Status) : Status :=
  { st with err := false, errCode := 0, busy := false, done := true }

/-- STATUS after a completion whose outcome is Err (43_orchestration.md R165): CLOCK also latches FAULT
(60_exceptions.md R211). -/
def Status.failed (e : CmdError) (st : Status) : Status :=
  { st with err := true, errCode := e.code, fault := st.fault || decide (e = .clock), busy := false, done := true }

/-- STATUS after a host write was dropped (20_memory.md R57): IGN is set. -/
def Status.ignored (st : Status) : Status := { st with ign := true }

/-- STATUS after a host write of `w` to it (10_state.md R23): IGN <- IGN & ~w[3], and nothing else. -/
def Status.written (w : Word) (st : Status) : Status :=
  { st with ign := st.ign && !w.getLsbD 3 }

/-- The value 1 at bit `i` of a word when `b` holds, else 0. -/
def bitAt (b : Bool) (i : Nat) : Word := (BitVec.ofBool b).setWidth 32 <<< i

/-- The word a read of STATUS returns (10_state.md R23): the fields at their bits, 0 elsewhere. -/
def Status.toWord (st : Status) : Word :=
  bitAt st.busy 0 ||| bitAt st.done 1 ||| bitAt st.err 2 ||| bitAt st.ign 3 ||| bitAt st.fault 4
    ||| st.errCode.setWidth 32 <<< 8

end Sys2Proof.Machine
end

