-- ==== Sys2Proof/Machine/Ops.lean ====
section
/-! DEFINITION. The named operations over the state: byte memory, staging and committing results
(43_orchestration.md R166), acceptance (R164), the two ends of a completion (R165), the clock sample
(60_exceptions.md R216) and taking reset (70_reset_and_hazards.md R240). STG takes no traps (60_exceptions.md
R200): `raise` is its one way to report an error, and there is no return from it (R210). -/

namespace Sys2Proof.Machine

/-! ### Byte memory -/

/-- The byte at `a`; an index that is not listed reads 0 (10_state.md R36: KEY is zeroed by reset). -/
def Memory.read : Memory → Nat → Byte
  | [], _ => 0
  | (x, b) :: m, a => if a = x then b else Memory.read m a

/-- Puts cell `a` in front of a memory all of whose indices are greater, leaving out a zero byte. -/
def Memory.cons (a : Nat) (b : Byte) (m : Memory) : Memory :=
  if b = 0 then m else (a, b) :: m

/-- Writes byte `b` at `a`, keeping the canonical form: writing 0 removes the entry. -/
def Memory.write : Memory → Nat → Byte → Memory
  | [], a, b => Memory.cons a b []
  | (x, c) :: m, a, b =>
    if a < x then Memory.cons a b ((x, c) :: m)
    else if a = x then Memory.cons a b m
    else (x, c) :: Memory.write m a b

/-- Every listed index is at least `lo`, indices rise strictly, and no zero byte is listed. -/
def Memory.wfFrom : Nat → Memory → Bool
  | _, [] => true
  | lo, (x, b) :: m => decide (lo ≤ x) && decide (b ≠ 0) && Memory.wfFrom (x + 1) m

/-- The canonical form of a byte memory: two memories in it that read alike are equal. -/
def Memory.wf (m : Memory) : Bool := Memory.wfFrom 0 m

/-- Byte lane `j` of a bus word (20_memory.md R54): bits [8j+7 : 8j]. -/
def lane (w : Word) (j : Nat) : Byte := w.extractLsb' (8 * j) 8

/-- The bus word whose byte lanes 0 to 3 are the four bytes (20_memory.md R54). -/
def ofLanes (b0 b1 b2 b3 : Byte) : Word :=
  b0.setWidth 32 ||| b1.setWidth 32 <<< 8 ||| b2.setWidth 32 <<< 16 ||| b3.setWidth 32 <<< 24

/-- Stores the lanes of `w` as the bytes 4k to 4k+3 of a byte array (20_memory.md R54). -/
def Memory.writeWord (m : Memory) (k : Nat) (w : Word) : Memory :=
  (((m.write (4 * k) (lane w 0)).write (4 * k + 1) (lane w 1)).write (4 * k + 2) (lane w 2)).write
    (4 * k + 3) (lane w 3)

/-! ### Staging and commit -/

/-- One staged result, `REG <- v` of a command rule (43_orchestration.md R166). -/
inductive Staged where
  | time (v : Word)
  | step (v : Word)
  | digest (d : Digest)
  | offset (v : BitVec 4)
  | trunc (v : BitVec 31)
  | codeIdx (v : BitVec 25)
  | codeLo (v : Word)
  | codeHi (v : Byte)
  deriving DecidableEq, Repr

/-- Writes one staged value to its register. -/
def State.put (s : State) : Staged → State
  | .time v => { s with time := v }
  | .step v => { s with step := v }
  | .digest d => { s with digest := d }
  | .offset v => { s with offset := v }
  | .trunc v => { s with trunc := v }
  | .codeIdx v => { s with codeIdx := v }
  | .codeLo v => { s with codeLo := v }
  | .codeHi v => { s with codeHi := v }

/-- Commit (43_orchestration.md R166): every staged value goes to its register. -/
def State.commit (s : State) (ws : List Staged) : State := ws.foldl State.put s

/-! ### The life of a command -/

/-- Acceptance of the CMD word `w` (43_orchestration.md R164). -/
def State.accept (s : State) (w : Word) : State :=
  { s with seq := .inflight w, status := s.status.accepted }

/-- The last line of a completion (43_orchestration.md R165): the new STATUS, and `seq <- IDLE`. -/
def State.retire (s : State) (st : Status) : State :=
  { s with status := st, seq := .idle }

/-- A completion whose outcome is Ok(writes) (43_orchestration.md R165): commit, and STATUS without an error. -/
def succeed (ws : List Staged) (s : State) : Host.Outcome State Fault Refusal :=
  .next ((s.commit ws).retire s.status.succeeded)

/-- The state after a completion whose outcome is Err (43_orchestration.md R165): nothing is committed. -/
def State.failed (s : State) (e : CmdError) : State := s.retire (s.status.failed e)

/-- `raise <Error>` (00_scope.md R12; 60_exceptions.md R200): the command ends with the error in STATUS. BAD_CMD and
KEY_SETUP leave the block usable; CLOCK is a fault of the model that carries the state with FAULT latched (R204,
90_conflicts.md C6; log 3). -/
def raise (e : CmdError) (s : State) : Host.Outcome State Fault Refusal :=
  match e with
  | .badCmd => .next (s.failed .badCmd)
  | .keySetup => .next (s.failed .keySetup)
  | .clock => .fault (.clockError (s.failed .clock))

/-- The end of a command body (43_orchestration.md R165): Ok(writes) or Err(code). -/
def finish (r : Except CmdError (List Staged)) (s : State) : Host.Outcome State Fault Refusal :=
  match r with
  | .ok ws => succeed ws s
  | .error e => raise e s

/-- A host write that is dropped (20_memory.md R57): IGN is set, nothing else changes. -/
def State.ignoreWrite (s : State) : State := { s with status := s.status.ignored }

/-! ### The environment -/

/-- `sample_clock()` (60_exceptions.md R216): one draw of the clock port, the next one the environment presents, or
the free value when the state lists none (log 2). -/
def State.sampleClock (s : State) : ClockSample × State :=
  match s.draws with
  | c :: cs => (c, { s with draws := cs })
  | [] => (Config.clockDraw s.drawCount, { s with drawCount := s.drawCount + 1 })

/-- Taking reset (70_reset_and_hazards.md R240, R241): every register, field and the sequencer as R36 says; a command
in flight is discarded. What the host and the environment have done and will do is theirs, not STG's (log 15). -/
def State.takeReset (s : State) : State :=
  { State.resetWith s.cfg with
    schedule := s.schedule, reads := s.reads, draws := s.draws, drawCount := s.drawCount }

end Sys2Proof.Machine
end

