-- ==== Sys2Proof/Machine/Operands.lean ====
section
/-! DEFINITION. The operands of the commands (30_encoding.md R72: named input registers, no other form) and the
functions of the four sub-blocks that are computed from them: the time step (40_timestep.md R100), the HMAC message
and key (41_keyed_hash.md R121, R122), dynamic truncation (R124), and the base-26 encoder (42_encoder.md R140) with
the packing of its result (R141). The constants are those of 00_scope.md R5. -/

namespace Sys2Proof.Machine

/-- PERIOD (00_scope.md R5): "time-step = 30 seconds". -/
def period : Word := 30

/-- VALUE_MASK (00_scope.md R5). -/
def valueMask : Word := 0x7FFFFFFF

/-- OFFSET_MASK (00_scope.md R5). -/
def offsetMask : Byte := 0x0F

/-- RADIX (00_scope.md R5). -/
def radix : Nat := 26

/-- ALPHABET as ASCII bytes, the table of 00_scope.md R13. R13 marks its byte values as general knowledge (log 14,
UNVERIFIED). -/
def alphabet : Vector Byte 26 :=
  #v[0x32, 0x33, 0x34, 0x35, 0x36, 0x37, 0x38, 0x39, 0x42, 0x43, 0x44, 0x46, 0x47,
     0x48, 0x4A, 0x4B, 0x4D, 0x4E, 0x50, 0x51, 0x52, 0x54, 0x56, 0x57, 0x58, 0x59]

/-! ### The time-step divider -/

/-- `timeStep(t) = t div 30`, unsigned floor division (40_timestep.md R100). -/
def timeStep (t : Word) : Word := t / period

/-! ### Byte strings -/

/-- `be32(v)` (00_scope.md R11): big-endian, most significant byte first. -/
def be32 (v : Word) : Vector Byte 4 :=
  #v[v.extractLsb' 24 8, v.extractLsb' 16 8, v.extractLsb' 8 8, v.extractLsb' 0 8]

/-- `fromBe32` (00_scope.md R11), the inverse of `be32`. -/
def fromBe32 (s : Vector Byte 4) : Word :=
  s[0].setWidth 32 <<< 24 ||| s[1].setWidth 32 <<< 16 ||| s[2].setWidth 32 <<< 8 ||| s[3].setWidth 32

/-! ### The HMAC-SHA1 unit's operands -/

/-- The counter message of a time step (41_keyed_hash.md R121): four zero bytes, then `be32` of the step. -/
def counterMessage (step : Word) : Message := (#v[0, 0, 0, 0] : Vector Byte 4) ++ be32 step

/-- The first `n` bytes of the key array, in index order (41_keyed_hash.md R122). -/
def keyBytes (key : Memory) (n : Nat) : List Byte := (List.range n).map key.read

/-- The key of HMAC, GEN_TIME and GEN_NOW: `KEY[0 .. KEYLEN]`, usable only when KEYLEN ≤ KEY_MAX, compared as
unsigned values; otherwise KEY_SETUP (41_keyed_hash.md R122, 60_exceptions.md R203). -/
def State.hmacKey (s : State) : Except CmdError (List Byte) :=
  if s.keyLen.toNat > s.cfg.keyMax then .error .keySetup else .ok (keyBytes s.key s.keyLen.toNat)

/-! ### Dynamic truncation -/

/-- The truncation offset `d[19] & 0x0F` (41_keyed_hash.md R124). -/
def truncOffset (d : Digest) : BitVec 4 := (d[19] &&& offsetMask).setWidth 4

/-- The window `d[off .. off+4]`; off is at most 15, so it lies within bytes 0 to 18 (41_keyed_hash.md R124). -/
def truncWindow (d : Digest) (off : BitVec 4) : Vector Byte 4 :=
  #v[d[off.toNat]'(by omega), d[off.toNat + 1]'(by omega), d[off.toNat + 2]'(by omega),
     d[off.toNat + 3]'(by omega)]

/-- The truncated integer: the big-endian window masked to 31 bits (41_keyed_hash.md R124). -/
def truncValue (d : Digest) : BitVec 31 :=
  (fromBe32 (truncWindow d (truncOffset d)) &&& valueMask).setWidth 31

/-! ### The base-26 encoder -/

/-- One digit of the encoder: `x mod 26` (42_encoder.md R140). -/
def digit (x : Nat) : Fin 26 := ⟨x % radix, Nat.mod_lt x (by decide)⟩

/-- The five indices of `encode(v)`, least significant digit first (42_encoder.md R140): exactly five rounds of
`x mod 26` and `x <- x div 26`; the final quotient is discarded. -/
def codeDigits (v : BitVec 31) : Vector (Fin 26) 5 :=
  let x0 := v.toNat
  let x1 := x0 / radix
  let x2 := x1 / radix
  let x3 := x2 / radix
  let x4 := x3 / radix
  #v[digit x0, digit x1, digit x2, digit x3, digit x4]

/-- `ALPHA[i]` (00_scope.md R13). -/
def alpha (i : Fin 26) : Byte := alphabet[i.val]

/-- CODEIDX of five indices (42_encoder.md R141): five bits each, index 0 lowest. -/
def packIdx (idx : Vector (Fin 26) 5) : BitVec 25 :=
  BitVec.ofNat 25 idx[0].val ||| BitVec.ofNat 25 idx[1].val <<< 5 ||| BitVec.ofNat 25 idx[2].val <<< 10
    ||| BitVec.ofNat 25 idx[3].val <<< 15 ||| BitVec.ofNat 25 idx[4].val <<< 20

/-- CODE_LO of five indices (42_encoder.md R141): symbols 0 to 3, symbol 0 in the lowest byte. -/
def packLo (idx : Vector (Fin 26) 5) : Word :=
  ofLanes (alpha idx[0]) (alpha idx[1]) (alpha idx[2]) (alpha idx[3])

/-- CODE_HI of five indices (42_encoder.md R141): symbol 4. -/
def packHi (idx : Vector (Fin 26) 5) : Byte := alpha idx[4]

/-! ### What the sub-blocks stage -/

/-- The results of the truncation unit on a digest (41_keyed_hash.md R125). -/
def stageTrunc (d : Digest) : List Staged := [.offset (truncOffset d), .trunc (truncValue d)]

/-- The results of the encoder on a 31-bit value (42_encoder.md R141). -/
def stageCode (v : BitVec 31) : List Staged :=
  [.codeIdx (packIdx (codeDigits v)), .codeLo (packLo (codeDigits v)), .codeHi (packHi (codeDigits v))]

/-- The body of 43_orchestration.md R161 with TIME read as `t`: KEY_SETUP, or the staged results of the four
sub-blocks chained. -/
def State.generate (s : State) (t : Word) : Except CmdError (List Staged) :=
  match s.hmacKey with
  | .error e => .error e
  | .ok k =>
    let d := Config.hmacSha1 k (counterMessage (timeStep t))
    .ok (.step (timeStep t) :: .digest d :: (stageTrunc d ++ stageCode (truncValue d)))

end Sys2Proof.Machine
end

