-- ==== Sys2Proof/Machine/Encoder.lean ====
section
/-! DEFINITION. The family of the base-26 encoder (42_encoder.md): ENCODE. -/

namespace Sys2Proof.Machine

/-- ENCODE (42_encoder.md R141): CODEIDX, CODE_LO and CODE_HI <- the code of TRUNC. -/
def execEncode (s : State) : Host.Outcome State Fault Refusal :=
  finish (.ok (stageCode s.trunc)) s

end Sys2Proof.Machine
end

