-- ==== Sys2Proof/Machine/EntryPoints.lean ====
section
/-! DEFINITION. The family of the entry points (43_orchestration.md): NOP, GEN_TIME and GEN_NOW. -/

namespace Sys2Proof.Machine

/-- NOP (43_orchestration.md R160): Ok with no writes. -/
def execNop (s : State) : Host.Outcome State Fault Refusal :=
  finish (.ok []) s

/-- GEN_TIME (43_orchestration.md R161): the four sub-blocks chained on TIME. -/
def execGenTime (s : State) : Host.Outcome State Fault Refusal :=
  finish (s.generate s.time) s

/-- What GEN_NOW stages with a clock sample (43_orchestration.md R162): CLOCK is checked before KEY_SETUP
(60_exceptions.md R207); on success TIME is staged beside what GEN_TIME stages. -/
def State.generateNow (s : State) (clk : ClockSample) : Except CmdError (List Staged) :=
  if clk.valid then
    match s.generate (clk.seconds.setWidth 32) with
    | .error e => .error e
    | .ok ws => .ok (.time (clk.seconds.setWidth 32) :: ws)
  else .error .clock

/-- GEN_NOW (43_orchestration.md R162): GEN_TIME on one clock sample taken mod 2^32. -/
def execGenNow (s : State) : Host.Outcome State Fault Refusal :=
  let (clk, t) := s.sampleClock
  finish (t.generateNow clk) t

end Sys2Proof.Machine
end

