-- ==== Sys2Proof/Machine/KeyedHash.lean ====
section
/-! DEFINITION. The family of the keyed hash and dynamic truncation (41_keyed_hash.md): HMAC and TRUNC. -/

namespace Sys2Proof.Machine

/-- HMAC (41_keyed_hash.md R123): KEY_SETUP when KEYLEN > KEY_MAX, else DIGEST <- hmacSha1 of the key and the
counter message of STEP. -/
def execHmac (s : State) : Host.Outcome State Fault Refusal :=
  finish (match s.hmacKey with
    | .error e => .error e
    | .ok k => .ok [.digest (Config.hmacSha1 k (counterMessage s.step))]) s

/-- TRUNC (41_keyed_hash.md R125): OFFSET and TRUNC <- truncate(DIGEST). -/
def execTrunc (s : State) : Host.Outcome State Fault Refusal :=
  finish (.ok (stageTrunc s.digest)) s

end Sys2Proof.Machine
end

