-- ==== Sys2Proof/Machine/TimeStep.lean ====
section
/-! DEFINITION. The family of the time-step divider and the clock read (40_timestep.md): STEP and READ_CLOCK. -/

namespace Sys2Proof.Machine

/-- STEP (40_timestep.md R101): STEP <- timeStep(TIME). -/
def execStep (s : State) : Host.Outcome State Fault Refusal :=
  finish (.ok [.step (timeStep s.time)]) s

/-- READ_CLOCK (40_timestep.md R102): one clock sample; CLOCK when it is not valid, else TIME <- secs mod 2^32
(R103). -/
def execReadClock (s : State) : Host.Outcome State Fault Refusal :=
  let (clk, t) := s.sampleClock
  finish (if clk.valid then .ok [.time (clk.seconds.setWidth 32)] else .error .clock) t

end Sys2Proof.Machine
end

