-- ==== Sys2Proof/Machine/Dispatch.lean ====
section
/-! DEFINITION. The body and completion of each command (43_orchestration.md R165), one arm per command. -/

namespace Sys2Proof.Machine

def exec (i : Instr) (s : State) : Host.Outcome State Fault Refusal :=
  match i with
  | .nop => Sys2Proof.Machine.execNop s
  | .step => Sys2Proof.Machine.execStep s
  | .hmac => Sys2Proof.Machine.execHmac s
  | .trunc => Sys2Proof.Machine.execTrunc s
  | .encode => Sys2Proof.Machine.execEncode s
  | .genTime => Sys2Proof.Machine.execGenTime s
  | .genNow => Sys2Proof.Machine.execGenNow s
  | .readClock => Sys2Proof.Machine.execReadClock s

end Sys2Proof.Machine
end

