-- ==== Sys2Proof/Machine/Window.lean ====
section
/-! DEFINITION. The register window: the map of 10_state.md R21, what a read returns (20_memory.md R54 to R56) and
what a write does (R57). The checks on width and alignment are in the host's moves (Agents.lean). -/

namespace Sys2Proof.Machine

/-- What lies at a word offset (10_state.md R21). -/
inductive Reg where
  | cmd | status | time | keyLen | step | trunc | offset | codeIdx | codeLo | codeHi
  /-- DIGESTk, k in 0 to 4. -/
  | digest (k : Fin 5)
  /-- KEYk, an implemented key word: k < KEY_MAX/4. -/
  | key (k : Nat)
  /-- A reserved offset, or an unimplemented key word (20_memory.md R55). -/
  | reserved
  deriving DecidableEq, Repr

/-- The registers of the first ten words of the window (10_state.md R21): word `j` is at offset 4j. -/
def scalarAt : Nat → Reg
  | 0 => .cmd      -- 0x000
  | 1 => .status   -- 0x004
  | 2 => .time     -- 0x008
  | 3 => .keyLen   -- 0x00C
  | 4 => .step     -- 0x010
  | 5 => .trunc    -- 0x014
  | 6 => .offset   -- 0x018
  | 7 => .codeIdx  -- 0x01C
  | 8 => .codeLo   -- 0x020
  | 9 => .codeHi   -- 0x024
  | _ => .reserved

/-- The register at the aligned offset `n` of a block with parameter `c` (10_state.md R21). A key word is implemented
when its number is below KEY_MAX/4 (20_memory.md R57); the key window ends at 0x7FC. -/
def regAtNat (c : Config) (n : Nat) : Reg :=
  if n < 0x040 then scalarAt (n / 4)
  else if n < 0x054 then .digest (Fin.ofNat 5 ((n - 0x040) / 4))
  else if 0x400 ≤ n ∧ n < 0x800 ∧ (n - 0x400) / 4 < c.keyMax / 4 then .key ((n - 0x400) / 4)
  else .reserved

/-- The register at an aligned offset (10_state.md R21). -/
def regAt (c : Config) (off : Offset) : Reg := regAtNat c off.toNat

/-- The word DIGESTk (20_memory.md R54): DIGEST[4k] in the lowest lane. -/
def digestWord (d : Digest) (k : Fin 5) : Word :=
  ofLanes (d[4 * k.val]'(by omega)) (d[4 * k.val + 1]'(by omega)) (d[4 * k.val + 2]'(by omega))
    (d[4 * k.val + 3]'(by omega))

/-- The digest with the lanes of `w` as its bytes 4k to 4k+3 (20_memory.md R54, R57). -/
def digestSetWord (d : Digest) (k : Fin 5) (w : Word) : Digest :=
  (((d.set (4 * k.val) (lane w 0) (by omega)).set (4 * k.val + 1) (lane w 1) (by omega)).set
    (4 * k.val + 2) (lane w 2) (by omega)).set (4 * k.val + 3) (lane w 3) (by omega)

/-- What a read of a register returns (20_memory.md R55, R56): CMD, KEYk and reserved offsets read 0; bits that are
hard-wired read 0. A read changes no state. -/
def State.readReg (s : State) : Reg → Word
  | .cmd => 0
  | .status => s.status.toWord
  | .time => s.time
  | .keyLen => s.keyLen
  | .step => s.step
  | .trunc => s.trunc.setWidth 32
  | .offset => s.offset.setWidth 32
  | .codeIdx => s.codeIdx.setWidth 32
  | .codeLo => s.codeLo
  | .codeHi => s.codeHi.setWidth 32
  | .digest k => digestWord s.digest k
  | .key _ => 0
  | .reserved => 0

/-- An input register takes a write only while no command is in flight; otherwise the write is dropped and IGN is set
(20_memory.md R57). FAULT does not matter here. -/
def State.writeInput (s : State) (s' : State) : State :=
  match s.seq with
  | .idle => s'
  | .inflight _ => s.ignoreWrite

/-- A write to CMD (20_memory.md R57, 43_orchestration.md R164): accepted when `seq = IDLE` and FAULT = 0, otherwise
dropped. -/
def State.writeCmd (s : State) (w : Word) : State :=
  match s.seq with
  | .idle => if s.status.fault then s.ignoreWrite else s.accept w
  | .inflight _ => s.ignoreWrite

/-- What a write of `w` to a register does (20_memory.md R55, R57). -/
def State.writeReg (s : State) (r : Reg) (w : Word) : State :=
  match r with
  | .cmd => s.writeCmd w
  | .status => { s with status := s.status.written w }
  | .time => s.writeInput { s with time := w }
  | .keyLen => s.writeInput { s with keyLen := w }
  | .step => s.writeInput { s with step := w }
  | .trunc => s.writeInput { s with trunc := (w &&& valueMask).setWidth 31 }
  | .digest k => s.writeInput { s with digest := digestSetWord s.digest k w }
  | .key k => s.writeInput { s with key := s.key.writeWord k w }
  | .offset => s
  | .codeIdx => s
  | .codeLo => s
  | .codeHi => s
  | .reserved => s

end Sys2Proof.Machine
end

