-- ==== Sys2Proof/Machine/Agents.lean ====
section
/-! DEFINITION. The moves of the three agents (00_scope.md R7): the host's bus accesses (20_memory.md R53 to R57),
the sequencer's completion (43_orchestration.md R165), and the environment's reset (70_reset_and_hazards.md R240). -/

namespace Sys2Proof.Machine

/-- Completion of the CMD word `w` (43_orchestration.md R165): the command's meaning, or BAD_CMD for a word that
decodes to Bad (60_exceptions.md R202). -/
def complete (w : Word) (s : State) : Host.Outcome State Fault Refusal :=
  match decode w with
  | .ok i => exec i s
  | .error _ => raise .badCmd s

/-- A turn of the sequencer: the command in flight completes; with none in flight no step of it is enabled, and the
block holds its registers (43_orchestration.md R165, 60_exceptions.md R220; log 10). -/
def sequencerTurn (s : State) : Host.Outcome State Fault Refusal :=
  match s.seq with
  | .idle => .next s
  | .inflight w => complete w s

/-- A host read (20_memory.md R53, R55, R56): a bus error, or the word, which the host receives. -/
def hostRead (off : Offset) (width : Nat) (s : State) : Host.Outcome State Fault Refusal :=
  if accessWf off width then .next { s with reads := s.reads ++ [s.readReg (regAt s.cfg off)] }
  else .fault (.busError off width)

/-- A host write (20_memory.md R53, R55, R57): a bus error, or the write to the register at the offset. -/
def hostWrite (off : Offset) (width : Nat) (w : Word) (s : State) : Host.Outcome State Fault Refusal :=
  if accessWf off width then .next (s.writeReg (regAt s.cfg off) w)
  else .fault (.busError off width)

/-- One move of one agent. -/
def move (e : Event) (s : State) : Host.Outcome State Fault Refusal :=
  match e with
  | .read off width => hostRead off width s
  | .write off width w => hostWrite off width w s
  | .sequencer => sequencerTurn s
  | .reset => .next s.takeReset

/-- One step of the block: the next move of the schedule, or the sequencer's turn when no move is left, so that a
command in flight completes (20_memory.md R61, 70_reset_and_hazards.md R248; log 1). -/
def agentStep (s : State) : Host.Outcome State Fault Refusal :=
  match s.schedule with
  | [] => sequencerTurn s
  | e :: es => move e { s with schedule := es }

/-- Whether a CMD word is of a command that samples the clock (60_exceptions.md R216). -/
def wantsClock (w : Word) : Bool :=
  match decode w with
  | .ok .genNow => true
  | .ok .readClock => true
  | _ => false

/-- The state with CMD word `w` accepted, the sequencer next to move, and, for a command that samples the clock where
the state lists no draw, a valid sample on the clock port, as 70_reset_and_hazards.md R242 step 4 has the platform
present one. It stands for the host's accepted write of `w` to CMD (log 12). -/
def State.placeCommand (s : State) (w : Word) : State :=
  { s.accept w with
    schedule := .sequencer :: s.schedule
    draws := if wantsClock w && s.draws.isEmpty then [{ valid := true, seconds := 0 }] else s.draws }

end Sys2Proof.Machine
end

