-- ==== Sys2Proof/Machine/Step.lean ====
section
/-! DEFINITION. One step of the machine (00_scope.md R8): a next state, a fault, or a refusal. -/

namespace Sys2Proof.Machine

/-- One step: the next move in the one total order of 20_memory.md R61. -/
def step (s : State) : Host.Outcome State Fault Refusal := agentStep s

/-- `s` with the command whose bits are `w` placed where the sequencer takes its next command from: accepted into
`seq`, with the sequencer next to move (43_orchestration.md R164; log 12). -/
def State.withFetchWord (s : State) (nbits w : Nat) : State := s.placeCommand (tableWord nbits w)

end Sys2Proof.Machine
end

