-- ==== Sys2Proof/Machine/Continue.lean ====
section
/-! DEFINITION. What the hardware does where the model stops with a fault. A clock error leaves the block with FAULT
latched, and it goes on answering the host until reset (60_exceptions.md R211); a bus error changes no state
(20_memory.md R53). The run of the model ends at both (00_scope.md R8); these functions let a statement follow the
hardware past them (log 3, log 13). -/

namespace Sys2Proof.Machine

/-- The state the hardware holds after one step, whatever its outcome. -/
def hardwareStep (s : State) : State :=
  match step s with
  | .next t => t
  | .fault (.clockError t) => t
  | .fault (.busError _ _) => { s with schedule := s.schedule.tail }
  | .refused _ => s

/-- The hardware after `n` steps. -/
def hardwareRun : Nat → State → State
  | 0, s => s
  | n + 1, s => hardwareRun n (hardwareStep s)

end Sys2Proof.Machine
end

