-- ==== Sys2Proof/Machine/Run.lean ====
section
/-! DEFINITION. The end of a host script's run (70_reset_and_hazards.md R249). -/

namespace Sys2Proof.Machine

/-- A move of the host: a transaction on the bus (00_scope.md R7). -/
def Event.byHost : Event → Bool
  | .read _ _ => true
  | .write _ _ _ => true
  | .sequencer => false
  | .reset => false

/-- The host has performed its last transaction: no move to come is the host's. Moves of the sequencer and the
environment may still be listed. -/
def State.hostDone (s : State) : Bool := s.schedule.all fun e => !e.byHost

/-- What R249 asks of the state a run has reached: the host is done, `seq = IDLE`, and FAULT = 0. -/
def State.settled (s : State) : Bool := s.hostDone && decide (s.seq = .idle) && !s.status.fault

/-- The end state of the run from `s`, if it comes within `n` steps: the first settled state the run reaches. R249 also
asks that no model fault has occurred on the way, so a run that meets a bus error or a clock error first has none,
whatever the hardware does after it (log 19). A run that starts with FAULT = 1 and is reset can have one: the spec leaves
that open (60_exceptions.md R204 against 95_test_vectors.md P4). DESIGN CHOICE (log 20); unsafe. -/
def State.endState : Nat → State → Option State
  | 0, s => if s.settled then some s else none
  | n + 1, s =>
    if s.settled then some s
    else match Machine.step s with
      | .next t => State.endState n t
      | .fault _ => none
      | .refused _ => none

end Sys2Proof.Machine
end

