-- ==== Sys2Proof/Machine/Script.lean ====
section
/-! DEFINITION. Host scripts (30_encoding.md R77 to R79): the lines of a program and the bus transactions they
expand to. They are notation: a script is a list of moves for the schedule. -/

namespace Sys2Proof.Machine

/-- A line of a host script (30_encoding.md R77, R78). A line that polls names how many STATUS reads see BUSY = 1,
which the spec leaves free (R79; 70_reset_and_hazards.md R247; log 16). -/
inductive ScriptLine where
  /-- `wr NAME, imm32`, the name given as its offset. -/
  | wr (off : Offset) (imm : Word)
  /-- `rd NAME -> var`. -/
  | rd (off : Offset)
  /-- `cmd MNEMONIC`. -/
  | cmd (i : Instr)
  /-- `wait`: STATUS reads until BUSY = 0. -/
  | wait (polls : Nat)
  /-- `clrign`. -/
  | clrign
  /-- `key b0 b1 ... bn-1`. -/
  | key (bytes : List Byte)
  /-- `digest d0 ... d19`. -/
  | digest (d : Digest)
  /-- `run MNEMONIC`. -/
  | run (i : Instr) (polls : Nat)
  /-- `gen_time t`. -/
  | genTime (t : Word) (polls : Nat)
  /-- `readcode -> c`. -/
  | readcode
  deriving DecidableEq, Repr

/-- `W off data` (30_encoding.md R79). -/
def busWrite (off : Nat) (w : Word) : Event := .write (BitVec.ofNat 12 off) 4 w

/-- `R off` (30_encoding.md R79). -/
def busRead (off : Nat) : Event := .read (BitVec.ofNat 12 off) 4

/-- The expansion of `wait` (30_encoding.md R78): the reads that see BUSY = 1, the completion, the read that sees
BUSY = 0. -/
def waitEvents (polls : Nat) : List Event :=
  List.replicate polls (busRead 0x004) ++ [.sequencer, busRead 0x004]

/-- The bytes packed four to a word, lane 0 first, bytes past the end taken as 0 (30_encoding.md R78). -/
def packWords : List Byte → List Word
  | b0 :: b1 :: b2 :: b3 :: bs => ofLanes b0 b1 b2 b3 :: packWords bs
  | [b0, b1, b2] => [ofLanes b0 b1 b2 0]
  | [b0, b1] => [ofLanes b0 b1 0 0]
  | [b0] => [ofLanes b0 0 0 0]
  | [] => []

/-- Writes of the words to consecutive word offsets from `base`. -/
def writeWords (base : Nat) : List Word → List Event
  | [] => []
  | w :: ws => busWrite base w :: writeWords (base + 4) ws

/-- The bus transactions of a line (30_encoding.md R77 to R79), with the sequencer's turn where a poll sees the
completion. -/
def ScriptLine.events : ScriptLine → List Event
  | .wr off imm => [.write off 4 imm]
  | .rd off => [.read off 4]
  | .cmd i => [busWrite 0x000 (encode i)]
  | .wait polls => waitEvents polls
  | .clrign => [busWrite 0x004 0x00000008]
  | .key bytes => busWrite 0x00C (BitVec.ofNat 32 bytes.length) :: writeWords 0x400 (packWords bytes)
  | .digest d => writeWords 0x040 (packWords d.toList)
  | .run i polls => busWrite 0x000 (encode i) :: waitEvents polls
  | .genTime t polls => busWrite 0x008 t :: busWrite 0x000 (encode .genTime) :: waitEvents polls
  | .readcode => [busRead 0x020, busRead 0x024]

/-- The bus transactions of a script. -/
def scriptEvents (lines : List ScriptLine) : List Event := lines.flatMap ScriptLine.events

end Sys2Proof.Machine
end

