-- ==== Sys2Proof/Safety.lean ====
section
/-! DEFINITION. What the claims are about: the invariant of the block, and the end of a run
(70_reset_and_hazards.md R249). -/

namespace Sys2Proof.Machine

/-- STATUS and the sequencer agree (10_state.md R23, R34): BUSY is 1 exactly in flight; BUSY and DONE are never both
1; ERR is 1 exactly when ERRCODE is not 0; ERRCODE is 0 to 3 (60_exceptions.md R201); ERR needs DONE; and while
FAULT is 1 the block is idle with ERRCODE = 3 (R211). -/
structure StatusInv (st : Status) (q : Seq) : Prop where
  busyIffInflight : st.busy = true ↔ q ≠ .idle
  notBusyAndDone : ¬(st.busy = true ∧ st.done = true)
  errIffCode : st.err = true ↔ st.errCode ≠ 0
  codeRaisable : st.errCode.toNat ≤ 3
  errNeedsDone : st.err = true → st.done = true
  faultFrozen : st.fault = true → q = .idle ∧ st.errCode = 3

/-- The code registers hold nothing yet, or the code of some 31-bit value (10_state.md R36, 42_encoder.md R142). -/
def CodeInv (s : State) : Prop :=
  (s.codeIdx = 0 ∧ s.codeLo = 0 ∧ s.codeHi = 0) ∨
  ∃ v : BitVec 31, s.codeIdx = packIdx (codeDigits v) ∧ s.codeLo = packLo (codeDigits v) ∧
    s.codeHi = packHi (codeDigits v)

/-- The key array: in canonical form, and no byte beyond KEY_MAX (10_state.md R27). -/
def KeyInv (s : State) : Prop :=
  s.key.wf = true ∧ ∀ i, s.cfg.keyMax ≤ i → s.key.read i = 0

/-- The invariant of the block. -/
structure Inv (s : State) : Prop where
  cfg : s.cfg.wf = true
  status : StatusInv s.status s.seq
  code : CodeInv s
  key : KeyInv s

/-- `t` is the end state of the run from `s` (70_reset_and_hazards.md R249): the first state at which the host has
performed its last transaction, `seq = IDLE` and FAULT = 0, with no model fault before it in this run (log 19). A run that starts with FAULT = 1 and is
reset can have an end state (log 20). -/
def State.final (s t : State) : Prop := ∃ n, s.endState n = some t

end Sys2Proof.Machine
end

