-- ==== Sys2Proof/Certificates/Slice0/Obligations.lean ====
section
/-! DEFINITION. The statements for the provers. `Sys2Proof.Claims` holds the arithmetic reading of the spec that
they are stated with: numbers, sums and characters where the model works with bit vectors and tables. -/

namespace Sys2Proof.Claims

open Sys2Proof.Machine

/-! ### STATUS after a completion (43_orchestration.md R165) -/

/-- STATUS after a completion without an error: IGN and FAULT as before. -/
def doneOk (st : Status) : Status :=
  { busy := false, done := true, err := false, ign := st.ign, fault := st.fault, errCode := 0 }

/-- STATUS after a completion with error code `c`: IGN and FAULT as before. -/
def doneErr (c : BitVec 4) (st : Status) : Status :=
  { busy := false, done := true, err := true, ign := st.ign, fault := st.fault, errCode := c }

/-- STATUS as a number (10_state.md R23). -/
def statusNat (st : Status) : Nat :=
  st.busy.toNat + 2 * st.done.toNat + 4 * st.err.toNat + 8 * st.ign.toNat + 16 * st.fault.toNat
    + 256 * st.errCode.toNat

/-! ### The encoder in arithmetic (42_encoder.md R140 to R142) -/

/-- ALPHABET (00_scope.md R5). -/
def symbols : List Char :=
  ['2', '3', '4', '5', '6', '7', '8', '9', 'B', 'C', 'D', 'F', 'G', 'H', 'J', 'K', 'M', 'N', 'P', 'Q', 'R', 'T',
   'V', 'W', 'X', 'Y']

/-- The character code of a symbol, by index. -/
def symbolCode (i : Nat) : Nat := (symbols.getD i ' ').toNat

/-- Digit `i` of `v` to base 26. -/
def digitNat (v i : Nat) : Nat := v / 26 ^ i % 26

/-- CODEIDX of `v` as a number. -/
def codeIdxNat (v : Nat) : Nat :=
  digitNat v 0 + 2 ^ 5 * digitNat v 1 + 2 ^ 10 * digitNat v 2 + 2 ^ 15 * digitNat v 3 + 2 ^ 20 * digitNat v 4

/-- CODE_LO of `v` as a number. -/
def codeLoNat (v : Nat) : Nat :=
  symbolCode (digitNat v 0) + 2 ^ 8 * symbolCode (digitNat v 1) + 2 ^ 16 * symbolCode (digitNat v 2)
    + 2 ^ 24 * symbolCode (digitNat v 3)

/-- CODE_HI of `v` as a number. -/
def codeHiNat (v : Nat) : Nat := symbolCode (digitNat v 4)

/-! ### Dynamic truncation in arithmetic (41_keyed_hash.md R124) -/

/-- Byte `i` of a digest as a number. -/
def digestNat (d : Digest) (i : Nat) : Nat := (d.toList.getD i 0).toNat

/-- The truncation offset: the low nibble of byte 19. -/
def offsetNat (d : Digest) : Nat := digestNat d 19 % 16

/-- The truncated integer: four bytes from the offset, most significant first, less their top bit. -/
def truncNat (d : Digest) : Nat :=
  (2 ^ 24 * digestNat d (offsetNat d) + 2 ^ 16 * digestNat d (offsetNat d + 1)
    + 2 ^ 8 * digestNat d (offsetNat d + 2) + digestNat d (offsetNat d + 3)) % 2 ^ 31

/-! ### Key and message (41_keyed_hash.md R121, R122) -/

/-- The message of a time step: four zero bytes, then the step's four bytes, most significant first. -/
def messageOf (step : Nat) : Message :=
  #v[0, 0, 0, 0, BitVec.ofNat 8 (step / 2 ^ 24), BitVec.ofNat 8 (step / 2 ^ 16), BitVec.ofNat 8 (step / 2 ^ 8),
     BitVec.ofNat 8 step]

/-- The first `n` bytes of the key array. -/
def keyOf (m : Memory) (n : Nat) : List Byte := (List.range n).map fun i => m.read i

/-- The digest of time step `step` under the loaded key. -/
def digestOf (s : State) (step : Nat) : Digest :=
  Config.hmacSha1 (keyOf s.key s.keyLen.toNat) (messageOf step)

/-- The truncated integer of GEN_TIME for the timestamp `t`. -/
def valueOf (s : State) (t : Nat) : Nat := truncNat (digestOf s (t / 30))

/-! ### The clock (60_exceptions.md R216) -/

/-- The value a clock sample draws in `s`: the next the environment presents, or the free value. -/
def clockNow (s : State) : ClockSample := s.draws.headD (Config.clockDraw s.drawCount)

/-- The timestamp a clock sample gives: its seconds mod 2^32 (40_timestep.md R103). -/
def nowSeconds (s : State) : Nat := (clockNow s).seconds.toNat % 2 ^ 32

/-- `s` after one clock sample. -/
def sampled (s : State) : State :=
  { s with draws := s.draws.tail, drawCount := if s.draws = [] then s.drawCount + 1 else s.drawCount }

/-! ### Moves -/

/-- It is the sequencer's turn, and `rest` is what the schedule holds after it. -/
def sequencerNext (s : State) (rest : List Event) : Prop :=
  s.schedule = .sequencer :: rest ∨ (s.schedule = [] ∧ rest = [])

/-- A move is a host access the window accepts (20_memory.md R51, R52). -/
def goodAccess (e : Event) : Prop :=
  (∃ off, e = .read off 4 ∧ off.toNat % 4 = 0) ∨ (∃ off w, e = .write off 4 w ∧ off.toNat % 4 = 0)

/-- `n` steps of the machine, stopping at the first fault or refusal. -/
def run : Nat → State → Host.Outcome State Fault Refusal
  | 0, s => .next s
  | n + 1, s =>
    match step s with
    | .next t => run n t
    | .fault f => .fault f
    | .refused r => .refused r

/-- The conditions of R249 on a state (70_reset_and_hazards.md): no host access to come, idle, and FAULT = 0. -/
def runOver (s : State) : Prop :=
  (∀ e ∈ s.schedule, e = .sequencer ∨ e = .reset) ∧ s.seq = .idle ∧ s.status.fault = false

/-- An offset of an input register other than CMD (10_state.md R21): TIME, KEYLEN, STEP, TRUNC, DIGESTk, or an
implemented KEYk. -/
abbrev inputOffset (c : Config) (n : Nat) : Prop :=
  n = 0x008 ∨ n = 0x00C ∨ n = 0x010 ∨ n = 0x014 ∨ (0x040 ≤ n ∧ n ≤ 0x050) ∨ (0x400 ≤ n ∧ n < 0x400 + c.keyMax)

/-- A reserved offset, or one of an unimplemented key word (10_state.md R21). -/
abbrev reservedOffset (c : Config) (n : Nat) : Prop :=
  (0x028 ≤ n ∧ n ≤ 0x03C) ∨ (0x054 ≤ n ∧ n ≤ 0x3FC) ∨ (0x400 + c.keyMax ≤ n ∧ n ≤ 0x7FC)
    ∨ (0x800 ≤ n ∧ n ≤ 0xFFC)

/-- The word at a window offset as a number (20_memory.md R56): 0 for CMD, KEYk and reserved offsets. -/
def windowNat (s : State) (n : Nat) : Nat :=
  if n = 0x004 then statusNat s.status
  else if n = 0x008 then s.time.toNat
  else if n = 0x00C then s.keyLen.toNat
  else if n = 0x010 then s.step.toNat
  else if n = 0x014 then s.trunc.toNat
  else if n = 0x018 then s.offset.toNat
  else if n = 0x01C then s.codeIdx.toNat
  else if n = 0x020 then s.codeLo.toNat
  else if n = 0x024 then s.codeHi.toNat
  else if 0x040 ≤ n ∧ n ≤ 0x050 then
    digestNat s.digest (n - 0x040) + 2 ^ 8 * digestNat s.digest (n - 0x040 + 1)
      + 2 ^ 16 * digestNat s.digest (n - 0x040 + 2) + 2 ^ 24 * digestNat s.digest (n - 0x040 + 3)
  else 0

/-- Byte `j` of a bus word, as a number's base-256 digit (20_memory.md R54). -/
def laneOf (w : Word) (j : Nat) : Byte := BitVec.ofNat 8 (w.toNat / 2 ^ (8 * j))

/-- What a write of `w` at the aligned offset `n` makes of `s`, where the next state is `t` (20_memory.md R57). -/
def writeEffect (s : State) (n : Nat) (w : Word) (t : State) : Prop :=
  if n = 0x000 then
    t = if s.seq = .idle ∧ s.status.fault = false then
          { s with seq := .inflight w
                   status := { busy := true, done := false, err := false, ign := s.status.ign,
                               fault := s.status.fault, errCode := 0 } }
        else { s with status := { s.status with ign := true } }
  else if n = 0x004 then
    t = { s with status := { s.status with ign := s.status.ign && !w.getLsbD 3 } }
  else if inputOffset s.cfg n then
    if s.seq ≠ .idle then t = { s with status := { s.status with ign := true } }
    else if n = 0x008 then t = { s with time := w }
    else if n = 0x00C then t = { s with keyLen := w }
    else if n = 0x010 then t = { s with step := w }
    else if n = 0x014 then t = { s with trunc := BitVec.ofNat 31 w.toNat }
    else if n ≤ 0x050 then
      ∃ d : Digest, t = { s with digest := d } ∧
        ∀ i : Fin 20, d[i] = if i.val / 4 = (n - 0x040) / 4 then laneOf w (i.val % 4) else s.digest[i]
    else
      ∃ m : Memory, t = { s with key := m } ∧ m.wf = true ∧
        ∀ i, m.read i = if i / 4 = (n - 0x400) / 4 then laneOf w (i % 4) else s.key.read i
  else t = s

end Sys2Proof.Claims

open Sys2Proof Sys2Proof.Machine Sys2Proof.Claims

/-! ### Encoding -/

/-- The words of 30_encoding.md R73, written out, decode to their commands, and two words of
95_test_vectors.md (X2, X3) do not decode. -/
def Obligations.CommandWordsDecode : Prop :=
  decode 0x00000000 = .ok .nop ∧ decode 0x00000001 = .ok .step ∧ decode 0x00000002 = .ok .hmac ∧
  decode 0x00000003 = .ok .trunc ∧ decode 0x00000004 = .ok .encode ∧ decode 0x00000005 = .ok .genTime ∧
  decode 0x00000006 = .ok .genNow ∧ decode 0x00000007 = .ok .readClock ∧
  decode 0x00000008 = .error .reservedOpcode ∧ decode 0x00000105 = .error .reservedBits

/-- The decoder and the encoder agree in both directions over all 2^32 words (30_encoding.md R73, R75): each command
is read from its one word and from no other. -/
def Obligations.DecodeIffEncoded : Prop :=
  ∀ (w : Word) (i : Instr), i.wf = true → (decode w = .ok i ↔ w = encode i)

/-- A turn of the sequencer runs the command that the word in flight decodes to (43_orchestration.md R165): the step
is `exec` of it, after the schedule has moved on. -/
def Obligations.StepRunsDecodedCommand : Prop :=
  ∀ (s : State) (w : Word) (i : Instr) (rest : List Event),
    s.seq = .inflight w → decode w = .ok i → sequencerNext s rest →
    step s = exec i { s with schedule := rest }

/-- A block with no command in flight holds its registers (60_exceptions.md R220): a turn of the sequencer there moves
the schedule on and changes nothing else. That the model lets such a turn be taken is log 10; that an empty schedule
is the sequencer's turn is log 1. -/
def Obligations.IdleBlockHoldsRegisters : Prop :=
  ∀ (s : State) (rest : List Event), s.seq = .idle → sequencerNext s rest →
    step s = .next { s with schedule := rest }

/-! ### Acceptance -/

/-- 43_orchestration.md R164: a write of any word to CMD is accepted exactly when the sequencer is idle and FAULT
is 0, and otherwise only sets IGN. -/
def Obligations.CmdWriteAcceptance : Prop :=
  ∀ (s : State) (w : Word) (rest : List Event), s.schedule = .write 0x000 4 w :: rest →
    step s = .next (if s.seq = .idle ∧ s.status.fault = false then
      { s with schedule := rest, seq := .inflight w
               status := { busy := true, done := false, err := false, ign := s.status.ign,
                           fault := s.status.fault, errCode := 0 } }
      else { s with schedule := rest, status := { s.status with ign := true } })

/-- 30_encoding.md R74, 60_exceptions.md R202 (and R75): a word with a reserved OP or a nonzero RSVD is accepted like
any other and completes with ERR = 1 and ERRCODE = 1; no register but STATUS changes. -/
def Obligations.BadCommandWordCompletes : Prop :=
  ∀ (s : State) (w : Word) (rest : List Event),
    (w.toNat / 256 ≠ 0 ∨ 8 ≤ w.toNat % 256) → s.seq = .idle → s.status.fault = false →
    s.schedule = .write 0x000 4 w :: .sequencer :: rest →
    run 2 s = .next { s with schedule := rest, status := doneErr 1 s.status }

/-! ### The commands -/

/-- 43_orchestration.md R160: NOP completes with no effect but STATUS, and leaves IGN; after reset, `run NOP` ends
with STATUS = 0x00000002 (State.reset is the instance of log 4). -/
def Obligations.NopResult : Prop :=
  decode 0x00000000 = .ok .nop ∧
  (∀ s : State, exec .nop s = .next { s with status := doneOk s.status, seq := .idle }) ∧
  run 3 { State.reset with schedule := (ScriptLine.run .nop 0).events } =
    .next { State.reset with status := doneOk State.reset.status, reads := [0x00000002] }

/-- 40_timestep.md R101: STEP sets STEP to TIME div 30, unsigned, and changes nothing else but STATUS. -/
def Obligations.StepResult : Prop :=
  decode 0x00000001 = .ok .step ∧
  ∀ s : State, exec .step s =
    .next { s with step := BitVec.ofNat 32 (s.time.toNat / 30), status := doneOk s.status, seq := .idle }

/-- 40_timestep.md R100 with the properties that the spec marks as derived from it: the divider is floor division by
30, its result is at most 0x08888888, and two timestamps have one time step exactly when they lie in one interval
[30k, 30k+29]. -/
def Obligations.TimeStepDivider : Prop :=
  (∀ t : Word, (timeStep t).toNat = t.toNat / 30 ∧ (timeStep t).toNat ≤ 0x08888888) ∧
  ∀ t1 t2 : Word, timeStep t1 = timeStep t2 ↔
    ∃ k : Nat, (30 * k ≤ t1.toNat ∧ t1.toNat ≤ 30 * k + 29) ∧ (30 * k ≤ t2.toNat ∧ t2.toNat ≤ 30 * k + 29)

/-- 40_timestep.md R102 and R103: READ_CLOCK draws one sample; a valid one goes to TIME mod 2^32. An invalid one is a
fault of the model by 60_exceptions.md R204; that this fault carries the state with TIME unchanged, ERRCODE = 3 and
FAULT = 1 is the model's choice (log 3). -/
def Obligations.ReadClockResult : Prop :=
  decode 0x00000007 = .ok .readClock ∧
  ∀ s : State,
    ((clockNow s).valid = true → exec .readClock s =
      .next { sampled s with time := BitVec.ofNat 32 (nowSeconds s),
                             status := doneOk s.status, seq := .idle }) ∧
    ((clockNow s).valid = false → exec .readClock s =
      .fault (.clockError { sampled s with status := { doneErr 3 s.status with fault := true }, seq := .idle }))

/-- 41_keyed_hash.md R121: the message is 8 bytes, the first four zero, the last four the step, most significant
byte first. -/
def Obligations.CounterMessageLayout : Prop :=
  ∀ step : Word, counterMessage step = messageOf step.toNat

/-- 41_keyed_hash.md R123: HMAC sets DIGEST to the keyed hash of STEP under the first KEYLEN key bytes, or fails with
KEY_SETUP and leaves DIGEST when KEYLEN > KEY_MAX. -/
def Obligations.HmacResult : Prop :=
  decode 0x00000002 = .ok .hmac ∧
  ∀ s : State,
    (s.keyLen.toNat ≤ s.cfg.keyMax → exec .hmac s =
      .next { s with digest := digestOf s s.step.toNat, status := doneOk s.status, seq := .idle }) ∧
    (s.cfg.keyMax < s.keyLen.toNat → exec .hmac s =
      .next { s with status := doneErr 2 s.status, seq := .idle })

/-- 41_keyed_hash.md R124 and R125: TRUNC sets OFFSET to the low nibble of byte 19 and TRUNC to the big-endian
window there, masked to 31 bits. -/
def Obligations.TruncResult : Prop :=
  decode 0x00000003 = .ok .trunc ∧
  ∀ s : State, exec .trunc s =
    .next { s with offset := BitVec.ofNat 4 (offsetNat s.digest), trunc := BitVec.ofNat 31 (truncNat s.digest),
                   status := doneOk s.status, seq := .idle }

/-- 42_encoder.md R140 and R141: ENCODE sets CODEIDX, CODE_LO and CODE_HI to the five base-26 digits of TRUNC, least
significant first, and their symbols; the character codes are the bytes of 00_scope.md R13 (log 14). -/
def Obligations.EncodeResult : Prop :=
  decode 0x00000004 = .ok .encode ∧
  ∀ s : State, exec .encode s =
    .next { s with codeIdx := BitVec.ofNat 25 (codeIdxNat s.trunc.toNat),
                   codeLo := BitVec.ofNat 32 (codeLoNat s.trunc.toNat),
                   codeHi := BitVec.ofNat 8 (codeHiNat s.trunc.toNat),
                   status := doneOk s.status, seq := .idle }

/-- 43_orchestration.md R161: GEN_TIME sets every register of its list from TIME and the key, or fails with KEY_SETUP
and changes none of them. -/
def Obligations.GenTimeResult : Prop :=
  decode 0x00000005 = .ok .genTime ∧
  ∀ s : State,
    (s.keyLen.toNat ≤ s.cfg.keyMax → exec .genTime s =
      .next { s with
              step := BitVec.ofNat 32 (s.time.toNat / 30)
              digest := digestOf s (s.time.toNat / 30)
              offset := BitVec.ofNat 4 (offsetNat (digestOf s (s.time.toNat / 30)))
              trunc := BitVec.ofNat 31 (valueOf s s.time.toNat)
              codeIdx := BitVec.ofNat 25 (codeIdxNat (valueOf s s.time.toNat))
              codeLo := BitVec.ofNat 32 (codeLoNat (valueOf s s.time.toNat))
              codeHi := BitVec.ofNat 8 (codeHiNat (valueOf s s.time.toNat))
              status := doneOk s.status
              seq := .idle }) ∧
    (s.cfg.keyMax < s.keyLen.toNat → exec .genTime s =
      .next { s with status := doneErr 2 s.status, seq := .idle })

/-- 43_orchestration.md R162: GEN_NOW draws one sample; on a valid one it sets TIME to it mod 2^32 and does what
GEN_TIME does with that TIME, or completes with KEY_SETUP and commits nothing. An invalid one is a fault of the model
by 60_exceptions.md R204; that this fault carries the state, with nothing committed, is the model's choice (log 3). -/
def Obligations.GenNowResult : Prop :=
  decode 0x00000006 = .ok .genNow ∧
  ∀ s : State,
    ((clockNow s).valid = true → s.keyLen.toNat ≤ s.cfg.keyMax → exec .genNow s =
      .next { sampled s with
              time := BitVec.ofNat 32 (nowSeconds s)
              step := BitVec.ofNat 32 (nowSeconds s / 30)
              digest := digestOf s (nowSeconds s / 30)
              offset := BitVec.ofNat 4 (offsetNat (digestOf s (nowSeconds s / 30)))
              trunc := BitVec.ofNat 31 (valueOf s (nowSeconds s))
              codeIdx := BitVec.ofNat 25 (codeIdxNat (valueOf s (nowSeconds s)))
              codeLo := BitVec.ofNat 32 (codeLoNat (valueOf s (nowSeconds s)))
              codeHi := BitVec.ofNat 8 (codeHiNat (valueOf s (nowSeconds s)))
              status := doneOk s.status
              seq := .idle }) ∧
    ((clockNow s).valid = true → s.cfg.keyMax < s.keyLen.toNat → exec .genNow s =
      .next { sampled s with status := doneErr 2 s.status, seq := .idle }) ∧
    ((clockNow s).valid = false → exec .genNow s =
      .fault (.clockError { sampled s with status := { doneErr 3 s.status with fault := true }, seq := .idle }))

/-- R73's columns: what each command may write and what it leaves. When a command completes, every register outside
its "writes" column is unchanged, KEYLEN, every byte of KEY, KEY_MAX, IGN and FAULT always are, and only the two clock
commands draw a sample. -/
def Obligations.CommandFrame : Prop :=
  ∀ (i : Instr) (s t : State), exec i s = .next t →
    (i ≠ .genNow → i ≠ .readClock → t.time = s.time ∧ t.draws = s.draws ∧ t.drawCount = s.drawCount) ∧
    (i ≠ .step → i ≠ .genTime → i ≠ .genNow → t.step = s.step) ∧
    (i ≠ .hmac → i ≠ .genTime → i ≠ .genNow → t.digest = s.digest) ∧
    (i ≠ .trunc → i ≠ .genTime → i ≠ .genNow → t.offset = s.offset ∧ t.trunc = s.trunc) ∧
    (i ≠ .encode → i ≠ .genTime → i ≠ .genNow →
      t.codeIdx = s.codeIdx ∧ t.codeLo = s.codeLo ∧ t.codeHi = s.codeHi) ∧
    t.keyLen = s.keyLen ∧ (∀ a, t.key.read a = s.key.read a) ∧ t.cfg = s.cfg ∧
    t.status.ign = s.status.ign ∧ t.status.fault = s.status.fault ∧
    t.schedule = s.schedule ∧ t.reads = s.reads

/-! ### Errors -/

/-- 60_exceptions.md R200 and 43_orchestration.md R166: a command that completes with ERR = 1 commits nothing; every
register but STATUS is as before, the report is in STATUS, and the block is idle and usable (R210). -/
def Obligations.FailedCommandCommitsNothing : Prop :=
  ∀ (i : Instr) (s t : State), exec i s = .next t → t.status.err = true →
    t = { s with status := doneErr t.status.errCode s.status, seq := .idle,
                 draws := t.draws, drawCount := t.drawCount } ∧ t.status.errCode = 2

/-- 60_exceptions.md R203: KEY_SETUP for the three keyed commands when KEYLEN > KEY_MAX, unsigned; the value stays in
KEYLEN and nothing but STATUS changes. -/
def Obligations.KeySetupError : Prop :=
  ∀ s : State, s.cfg.keyMax < s.keyLen.toNat →
    exec .hmac s = .next { s with status := doneErr 2 s.status, seq := .idle } ∧
    exec .genTime s = .next { s with status := doneErr 2 s.status, seq := .idle } ∧
    ((clockNow s).valid = true →
      exec .genNow s = .next { sampled s with status := doneErr 2 s.status, seq := .idle })

/-- 60_exceptions.md R204: an invalid clock sample is a fault of the model for READ_CLOCK and GEN_NOW; the state it
carries (log 3) has ERRCODE = 3, FAULT = 1 and every result register as before. -/
def Obligations.ClockErrorFaults : Prop :=
  ∀ (s : State) (i : Instr), i = .readClock ∨ i = .genNow → (clockNow s).valid = false →
    exec i s =
      .fault (.clockError { sampled s with status := { doneErr 3 s.status with fault := true }, seq := .idle })

/-- 60_exceptions.md R207: BAD_CMD comes before CLOCK and KEY_SETUP, whatever the clock and KEYLEN are; CLOCK comes
before KEY_SETUP in GEN_NOW. Reading ERRCODE from the state that the clock fault carries rests on log 3, and taking an
empty schedule for the sequencer's turn on log 1. -/
def Obligations.ErrorPriority : Prop :=
  (∀ (s : State) (w : Word) (rest : List Event), s.seq = .inflight w →
    (w.toNat / 256 ≠ 0 ∨ 8 ≤ w.toNat % 256) → sequencerNext s rest →
    step s = .next { s with schedule := rest, status := doneErr 1 s.status, seq := .idle }) ∧
  (∀ s : State, (clockNow s).valid = false → s.cfg.keyMax < s.keyLen.toNat →
    ∃ t, exec .genNow s = .fault (.clockError t) ∧ t.status.errCode = 3) ∧
  (∀ s : State, (clockNow s).valid = true → s.cfg.keyMax < s.keyLen.toNat →
    ∃ t, exec .genNow s = .next t ∧ t.status.errCode = 2)

/-- 60_exceptions.md R211: FAULT is set by the CLOCK completion of READ_CLOCK or GEN_NOW alone and cleared by reset
alone; while it is 1 a CMD write only sets IGN, and ERR = 1 and ERRCODE = 3 stay. Accesses other than a CMD write are
covered by WindowReads and WindowWrites, which hold whatever FAULT is.
The second clause reads the state that the clock fault carries (log 3). -/
def Obligations.FaultLatch : Prop :=
  (∀ s t : State, step s = .next t → s.schedule.head? ≠ some .reset → t.status.fault = s.status.fault) ∧
  (∀ s t : State, step s = .fault (.clockError t) → t.status.fault = true ∧
    (s.seq = .inflight 0x00000006 ∨ s.seq = .inflight 0x00000007)) ∧
  (∀ s t : State, step s = .next t → s.schedule.head? = some .reset → t.status.fault = false) ∧
  (∀ (s : State) (w : Word) (rest : List Event), s.status.fault = true → s.schedule = .write 0x000 4 w :: rest →
    step s = .next { s with schedule := rest, status := { s.status with ign := true } }) ∧
  (∀ s t : State, Inv s → s.status.fault = true → step s = .next t → t.status.fault = true →
    t.status.err = true ∧ t.status.errCode = 3)

/-- The hardware goes on after a clock fault as 60_exceptions.md R211 says: an invalid sample under READ_CLOCK, then a
NOP written to CMD, a read of STATUS, reset, and a read of STATUS give 0x0000031E and 0x00000000
(95_test_vectors.md X8, X9, P4). -/
def Obligations.HardwareAfterClockFault : Prop :=
  ∀ s : State, s.seq = .inflight 0x00000007 → (clockNow s).valid = false →
    s.schedule = [.sequencer, .write 0x000 4 0x00000000, .read 0x004 4, .reset, .read 0x004 4] →
    (hardwareRun 5 s).reads = s.reads ++ [0x0000031E, 0x00000000] ∧ (hardwareRun 5 s).seq = .idle ∧
    (hardwareRun 5 s).time = 0

/-- The machine has a meaning for every move in every state (00_scope.md R8): no step is refused. In a state with
FAULT = 1 this rests on log 3: the model follows 60_exceptions.md R211 there, where 93_implementation_defined.md item
20 has a model refuse. -/
def Obligations.NoStepRefused : Prop :=
  ∀ (s : State) (r : Refusal), step s ≠ .refused r

/-- The only faults are those of 00_scope.md R8: a bus error for a host access that is not a 4-byte aligned one, and
the clock error of GEN_NOW or READ_CLOCK on an invalid sample (which carries a state by log 3). -/
def Obligations.OnlySpecFaults : Prop :=
  ∀ (s : State) (f : Fault), step s = .fault f →
    (∃ off width, f = .busError off width ∧ (width ≠ 4 ∨ off.toNat % 4 ≠ 0) ∧
      (s.schedule.head? = some (.read off width) ∨ ∃ w, s.schedule.head? = some (.write off width w))) ∨
    (∃ t, f = .clockError t ∧ (clockNow s).valid = false ∧
      (s.seq = .inflight (encode .genNow) ∨ s.seq = .inflight (encode .readClock)))

/-! ### The register window -/

/-- 20_memory.md R53: an access that is not 4 bytes wide, or not aligned, is a bus error. That the hardware changes no
state is said through `hardwareStep`, the model's own, which takes the host's move off the schedule (log 13). -/
def Obligations.BusErrorChangesNothing : Prop :=
  ∀ (s : State) (off : Offset) (width : Nat) (w : Word) (rest : List Event),
    width ≠ 4 ∨ off.toNat % 4 ≠ 0 →
    s.schedule = .read off width :: rest ∨ s.schedule = .write off width w :: rest →
    step s = .fault (.busError off width) ∧ hardwareStep s = { s with schedule := rest }

/-- 20_memory.md R56: what an aligned word read returns at every offset, in every state, in flight and with FAULT = 1
alike; it changes no state (but the model's list of words read). -/
def Obligations.WindowReads : Prop :=
  ∀ (s : State) (off : Offset) (rest : List Event), off.toNat % 4 = 0 → s.schedule = .read off 4 :: rest →
    step s = .next { s with schedule := rest
                            reads := s.reads ++ [BitVec.ofNat 32 (windowNat s off.toNat)] }

/-- 20_memory.md R57: what an aligned word write does at every offset, in every state whose KEY_MAX is legal and whose
key array is in canonical form. -/
def Obligations.WindowWrites : Prop :=
  ∀ (s : State) (off : Offset) (w : Word) (rest : List Event),
    s.cfg.wf = true → s.key.wf = true → off.toNat % 4 = 0 → s.schedule = .write off 4 w :: rest →
    ∃ t, step s = .next t ∧ writeEffect { s with schedule := rest } off.toNat w t

/-- 20_memory.md R55: a reserved offset, or an unimplemented key word, reads 0; a write to it changes nothing, not
even IGN. -/
def Obligations.ReservedOffsets : Prop :=
  ∀ (s : State) (off : Offset) (w : Word) (rest : List Event),
    s.cfg.wf = true → off.toNat % 4 = 0 → reservedOffset s.cfg off.toNat →
    (s.schedule = .read off 4 :: rest → step s = .next { s with schedule := rest, reads := s.reads ++ [0] }) ∧
    (s.schedule = .write off 4 w :: rest → step s = .next { s with schedule := rest })

/-- A word written to an RW register with no command in flight is read back (20_memory.md R54, R56, R57): whole from
TIME, KEYLEN, STEP and DIGESTk, less bit 31 from TRUNC, and as 0 from a KEY word. -/
def Obligations.WrittenWordReadBack : Prop :=
  ∀ (s : State) (off : Offset) (w : Word) (rest : List Event),
    s.seq = .idle → off.toNat % 4 = 0 → s.schedule = .write off 4 w :: .read off 4 :: rest →
    ∃ t, run 2 s = .next t ∧ t.schedule = rest ∧
      (off.toNat = 0x008 ∨ off.toNat = 0x00C ∨ off.toNat = 0x010 ∨ (0x040 ≤ off.toNat ∧ off.toNat ≤ 0x050) →
        t.reads = s.reads ++ [w]) ∧
      (off.toNat = 0x014 → t.reads = s.reads ++ [BitVec.ofNat 32 (w.toNat % 2 ^ 31)]) ∧
      (0x400 ≤ off.toNat → off.toNat ≤ 0x7FC → t.reads = s.reads ++ [0])

/-- 70_reset_and_hazards.md R244 (20_memory.md R57): a write to CMD or to an input register while a command is in
flight is dropped and sets IGN. -/
def Obligations.WriteInFlightDropped : Prop :=
  ∀ (s : State) (off : Offset) (w : Word) (rest : List Event),
    s.cfg.wf = true → s.seq ≠ .idle → off.toNat % 4 = 0 →
    off.toNat = 0x000 ∨ inputOffset s.cfg off.toNat → s.schedule = .write off 4 w :: rest →
    step s = .next { s with schedule := rest, status := { s.status with ign := true } }

/-- The values read at completion equal the values at acceptance (10_state.md R34, marked there as derived): however
many accesses the host makes in flight, they change IGN and nothing else of the block. -/
def Obligations.InputsStableInFlight : Prop :=
  ∀ (es rest : List Event) (s : State) (w : Word),
    (∀ e ∈ es, goodAccess e) → s.seq = .inflight w → s.schedule = es ++ rest →
    ∃ (b : Bool) (rs : List Word), run es.length s =
      .next { s with schedule := rest, status := { s.status with ign := b }, reads := s.reads ++ rs }

/-- Every command in flight completes (70_reset_and_hazards.md R248): after the accesses the host still makes, one
step more ends it, in a next state or in the clock fault, idle, with BUSY = 0 and DONE = 1. That an empty schedule
is then the sequencer's turn is log 1, and that the clock fault carries the state of which this is said is log 3. -/
def Obligations.CommandInFlightCompletes : Prop :=
  ∀ (s : State) (w : Word), (∀ e ∈ s.schedule, goodAccess e) → s.seq = .inflight w →
    ∃ t, (run (s.schedule.length + 1) s = .next t ∨ run (s.schedule.length + 1) s = .fault (.clockError t)) ∧
      t.seq = .idle ∧ t.status.busy = false ∧ t.status.done = true

/-- A host access leaves the read-only result registers OFFSET, CODEIDX, CODE_LO and CODE_HI, and in flight every
register but STATUS, whose IGN a dropped write sets (20_memory.md R57, R58; 70_reset_and_hazards.md R243). The other
results, TIME, STEP, TRUNC and DIGEST, are input registers too, and an idle write stores to them (WindowWrites). -/
def Obligations.AccessesLeaveResults : Prop :=
  ∀ (s t : State) (e : Event) (rest : List Event),
    (∃ off width, e = .read off width) ∨ (∃ off width w, e = .write off width w) →
    s.schedule = e :: rest → step s = .next t →
    t.offset = s.offset ∧ t.codeIdx = s.codeIdx ∧ t.codeLo = s.codeLo ∧ t.codeHi = s.codeHi ∧
    (s.seq ≠ .idle → t.seq = s.seq ∧ t.time = s.time ∧ t.keyLen = s.keyLen ∧ t.step = s.step ∧
      t.trunc = s.trunc ∧ t.digest = s.digest ∧ (∀ a, t.key.read a = s.key.read a))

/-- The key cannot be read over the bus (10_state.md R27; 60_exceptions.md R212): as long as no command completes, two
blocks that differ only in their key bytes give the host the same words, whatever it reads and writes. -/
def Obligations.KeyIsUnreadable : Prop :=
  ∀ (n : Nat) (s : State) (k : Memory), n ≤ s.schedule.length → (∀ e ∈ s.schedule, e ≠ .sequencer) →
    (∀ t, run n s = .next t → ∃ k', run n { s with key := k } = .next { t with key := k' }) ∧
    (∀ f, run n s = .fault f → run n { s with key := k } = .fault f)

/-! ### Reset -/

/-- 10_state.md R36: after reset every register reads 0, every STATUS field is 0, both byte arrays are zero, and the
sequencer is idle, whatever KEY_MAX is. -/
def Obligations.ResetState : Prop :=
  ∀ (c : Config) (s : State), s = State.resetWith c →
    (∀ off : Offset, s.readReg (regAt c off) = 0) ∧
    s.status.busy = false ∧ s.status.done = false ∧ s.status.err = false ∧ s.status.ign = false ∧
    s.status.fault = false ∧ s.status.errCode = 0 ∧
    s.time = 0 ∧ s.keyLen = 0 ∧ s.step = 0 ∧ s.trunc = 0 ∧ s.offset = 0 ∧ s.codeIdx = 0 ∧ s.codeLo = 0 ∧
    s.codeHi = 0 ∧ (∀ i : Fin 20, s.digest[i] = 0) ∧ (∀ a, s.key.read a = 0) ∧ s.seq = .idle

/-- 70_reset_and_hazards.md R240 and R241: reset may come in any state; one step makes every register, field and the
sequencer what they are after reset, and a command in flight is discarded. The host's words read and the moves to come
are not STG's (log 15). -/
def Obligations.ResetFromAnyState : Prop :=
  ∀ (s : State) (rest : List Event), s.schedule = .reset :: rest →
    step s = .next { State.resetWith s.cfg with
      schedule := rest, reads := s.reads, draws := s.draws, drawCount := s.drawCount }

/-! ### Invariants -/

/-- The state after reset meets the invariant, for every legal KEY_MAX and so for the instance 64 (log 4). -/
def Obligations.InvariantAtReset : Prop :=
  Inv State.reset ∧ ∀ c : Config, c.wf = true → Inv (State.resetWith c)

/-- Every step keeps the invariant (10_state.md R23, R34; 60_exceptions.md R201, R211; 42_encoder.md R142;
10_state.md R27): STATUS agrees with the sequencer, the code registers hold a code, the key array is canonical. -/
def Obligations.StepKeepsInvariant : Prop :=
  ∀ s t : State, Inv s → step s = .next t → Inv t

/-- The state that a clock fault carries (log 3) meets the invariant too, with FAULT latched (60_exceptions.md
R211). -/
def Obligations.ClockFaultKeepsInvariant : Prop :=
  ∀ s t : State, Inv s → step s = .fault (.clockError t) → Inv t ∧ t.status.fault = true

/-- KEY_MAX is a parameter (00_scope.md R6), held as a field of the state (log 4): no step changes it, and it is the
same in the state that a clock fault carries (log 3). -/
def Obligations.ParameterNeverChanges : Prop :=
  (∀ s t : State, step s = .next t → t.cfg = s.cfg) ∧
  (∀ s t : State, step s = .fault (.clockError t) → t.cfg = s.cfg)

/-! ### The composition -/

/-- 42_encoder.md R142, which the spec marks as derived from R140: the digits are those of base 26; the code depends
only on v mod 26^5, and the lost quotient is at most 180; every five indices are the code of exactly one v below
26^5; and every symbol is in the alphabet. -/
def Obligations.EncoderProperties : Prop :=
  (∀ (v : BitVec 31) (i : Fin 5), ((codeDigits v)[i]).val = v.toNat / 26 ^ i.val % 26) ∧
  (∀ v v' : BitVec 31, codeDigits v = codeDigits v' ↔ v.toNat % 26 ^ 5 = v'.toNat % 26 ^ 5) ∧
  (∀ v : BitVec 31, v.toNat / 26 ^ 5 ≤ 180) ∧
  (∀ idx : Vector (Fin 26) 5, ∃ v : BitVec 31, (v.toNat < 26 ^ 5 ∧ codeDigits v = idx) ∧
    ∀ v' : BitVec 31, v'.toNat < 26 ^ 5 → codeDigits v' = idx → v' = v) ∧
  (∀ i : Fin 26, (alpha i).toNat = symbolCode i.val ∧ (alpha i).toNat ∈ symbols.map Char.toNat)

/-- 43_orchestration.md R163, which the spec marks as derived from R101, R123, R125, R141 and R161: from an idle state
with FAULT = 0 and KEYLEN ≤ KEY_MAX, `run GEN_TIME` leaves what `run STEP; run HMAC; run TRUNC; run ENCODE` leave in
every register, however often each `wait` polls; with KEYLEN > KEY_MAX the sequence commits STEP, fails at HMAC and
has then changed no other register but STATUS, and GEN_TIME changes none but STATUS. -/
def Obligations.CompositionOfSubBlocks : Prop :=
  ∀ (s a b : State) (p p1 p2 p3 p4 : Nat),
    s.seq = .idle → s.status.fault = false →
    a = { s with schedule := scriptEvents [.run .genTime p] } →
    b = { s with schedule := scriptEvents [.run .step p1, .run .hmac p2, .run .trunc p3, .run .encode p4] } →
    (s.keyLen.toNat ≤ s.cfg.keyMax →
      ∃ t u, run a.schedule.length a = .next t ∧ run b.schedule.length b = .next u ∧
        t = { u with reads := t.reads }) ∧
    (s.cfg.keyMax < s.keyLen.toNat →
      ∃ t u, run (scriptEvents [.run .genTime p]).length a = .next t ∧
        run (scriptEvents [.run .step p1, .run .hmac p2]).length b = .next u ∧
        t = { s with status := doneErr 2 s.status, schedule := [], reads := t.reads } ∧
        u = { s with step := BitVec.ofNat 32 (s.time.toNat / 30), status := doneErr 2 s.status,
                     schedule := scriptEvents [.run .trunc p3, .run .encode p4], reads := u.reads })

/-- 43_orchestration.md R167, which the spec marks as derived: determinism in TIME, KEYLEN and the key bytes below
KEYLEN; quantization to 30-second intervals; different STEP values at a boundary; and five symbols of the alphabet
in every committed code. -/
def Obligations.TotpProperties : Prop :=
  (∀ s s' t t' : State, s.cfg = s'.cfg → s.keyLen = s'.keyLen →
    (∀ i, i < s.keyLen.toNat → s.key.read i = s'.key.read i) →
    s.time.toNat / 30 = s'.time.toNat / 30 → s.keyLen.toNat ≤ s.cfg.keyMax →
    exec .genTime s = .next t → exec .genTime s' = .next t' →
    t.step = t'.step ∧ t.digest = t'.digest ∧ t.offset = t'.offset ∧ t.trunc = t'.trunc ∧
    t.codeIdx = t'.codeIdx ∧ t.codeLo = t'.codeLo ∧ t.codeHi = t'.codeHi) ∧
  (∀ (s s' t t' : State) (k : Nat), 0 < k → s.time.toNat = 30 * k - 1 → s'.time.toNat = 30 * k →
    s.keyLen.toNat ≤ s.cfg.keyMax → s'.keyLen.toNat ≤ s'.cfg.keyMax →
    exec .genTime s = .next t → exec .genTime s' = .next t' → t.step ≠ t'.step) ∧
  (∀ (s t : State) (i : Instr), i = .encode ∨ i = .genTime ∨ i = .genNow → exec i s = .next t →
    t.status.err = false →
    (∀ j, j < 4 → t.codeLo.toNat / 2 ^ (8 * j) % 256 ∈ symbols.map Char.toNat) ∧
    t.codeHi.toNat ∈ symbols.map Char.toNat)

/-! ### Bus transactions of the host-script lines -/

/-- The line `run MNEMONIC` (30_encoding.md R78), on an idle block with FAULT = 0: acceptance, as many busy polls as
the latency makes, the completion, and a poll that sees it; the words read are STATUS busy and then STATUS done
(20_memory.md R62). -/
def Obligations.RunLineCompletes : Prop :=
  ∀ (s t : State) (i : Instr) (p : Nat) (rest : List Event),
    s.seq = .idle → s.status.fault = false → s.schedule = (ScriptLine.run i p).events ++ rest →
    exec i { s with
      seq := .inflight (encode i)
      status := { busy := true, done := false, err := false, ign := s.status.ign, fault := false, errCode := 0 }
      schedule := .read 0x004 4 :: rest
      reads := s.reads ++ List.replicate p (BitVec.ofNat 32 (1 + 8 * s.status.ign.toNat)) } = .next t →
    run (p + 3) s =
      .next { t with schedule := rest, reads := t.reads ++ [BitVec.ofNat 32 (statusNat t.status)] }

/-- The line `key b0 ... bn-1` (30_encoding.md R78; 70_reset_and_hazards.md R242 step 3), on an idle block: KEYLEN
is n, the n bytes are KEY[0] to KEY[n-1] in order, the bytes past n of the last word are 0, and every byte past that
word is as before. -/
def Obligations.KeyLineLoadsKey : Prop :=
  ∀ (s : State) (bytes : List Byte) (rest : List Event),
    Inv s → s.seq = .idle → keyWf s.cfg bytes = true → s.schedule = (ScriptLine.key bytes).events ++ rest →
    ∃ m : Memory, run (ScriptLine.key bytes).events.length s =
        .next { s with keyLen := BitVec.ofNat 32 bytes.length, key := m, schedule := rest } ∧
      m.wf = true ∧ (∀ i, i < bytes.length → m.read i = bytes.getD i 0) ∧
      (∀ i, bytes.length ≤ i → i < (bytes.length + 3) / 4 * 4 → m.read i = 0) ∧
      (∀ i, (bytes.length + 3) / 4 * 4 ≤ i → m.read i = s.key.read i)

/-- From an idle block with FAULT = 0, the boot order of 70_reset_and_hazards.md R242 gives the code: for every key
the store can hold and every timestamp, loading the key, `gen_time t` and `readcode` return the code of
`hmacSha1(key, t div 30)` (43_orchestration.md R161), however often the host polls. -/
def Obligations.BootSequenceGivesCode : Prop :=
  ∀ (s : State) (bytes : List Byte) (time : Word) (p : Nat),
    Inv s → s.seq = .idle → s.status.fault = false → keyWf s.cfg bytes = true →
    s.schedule = scriptEvents [.key bytes, .genTime time p, .readcode] →
    ∃ t, run s.schedule.length s = .next t ∧ s.final t ∧ t.status.err = false ∧
      ∃ polls, t.reads = s.reads ++ polls ++
        [BitVec.ofNat 32 (codeLoNat (truncNat (Config.hmacSha1 bytes (messageOf (time.toNat / 30))))),
         BitVec.ofNat 32 (codeHiNat (truncNat (Config.hmacSha1 bytes (messageOf (time.toNat / 30)))))]

/-- 70_reset_and_hazards.md R249: a run ends at the first state it reaches with no host transaction to come, `seq =
IDLE` and FAULT = 0; that state is the end state, and there is no other. Moves of the sequencer or a reset that
still stand in the schedule do not replace it. A run that meets a fault of the model has no end state: reading 'no
model fault has occurred' of the whole run is log 19. A run that starts with FAULT = 1 and is reset can have one,
which is the model's choice (log 20). -/
def Obligations.RunEndsAtFirstSettledState : Prop :=
  (∀ s t : State, s.final t ↔ ∃ n, run n s = .next t ∧ runOver t ∧
    ∀ (k : Nat) (u : State), k < n → run k s = .next u → ¬ runOver u) ∧
  (∀ s t u : State, s.final t → s.final u → t = u) ∧
  (∀ (s : State) (n : Nat) (f : Fault), run n s = .fault f → ∀ t, ¬ s.final t)
end

