-- ==== Sys2Proof/Laws/Memory.lean ====
section
/-! SUPPORT. The laws of the sparse byte memory: every write keeps the canonical form, a read after a write, and a
memory in canonical form is fixed by what it reads. -/

namespace Sys2Proof.Machine

theorem Memory.wfFrom_cons_iff {lo x : Nat} {b : Byte} {m : Memory} :
    wfFrom lo ((x, b) :: m) = true ↔ lo ≤ x ∧ b ≠ 0 ∧ wfFrom (x + 1) m = true := by
  simp [wfFrom, and_assoc]

theorem Memory.wfFrom_mono {lo lo' : Nat} {m : Memory} (h : lo' ≤ lo) (hm : wfFrom lo m = true) :
    wfFrom lo' m = true := by
  cases m with
  | nil => rfl
  | cons c m =>
    obtain ⟨hx, hb, hm⟩ := wfFrom_cons_iff.1 hm
    exact wfFrom_cons_iff.2 ⟨by omega, hb, hm⟩

theorem Memory.cons_wfFrom {lo a : Nat} {b : Byte} {m : Memory} (ha : lo ≤ a) (hm : wfFrom (a + 1) m = true) :
    wfFrom lo (cons a b m) = true := by
  unfold cons
  split
  · exact wfFrom_mono (by omega) hm
  · exact wfFrom_cons_iff.2 ⟨ha, ‹_›, hm⟩

theorem Memory.write_wfFrom {m : Memory} {lo a : Nat} {b : Byte} (ha : lo ≤ a) (hm : wfFrom lo m = true) :
    wfFrom lo (write m a b) = true := by
  induction m generalizing lo with
  | nil => exact cons_wfFrom ha rfl
  | cons c m ih =>
    obtain ⟨x, v⟩ := c
    obtain ⟨hx, hv, hm⟩ := wfFrom_cons_iff.1 hm
    simp only [write]
    split_ifs with h1 h2
    · exact cons_wfFrom ha (wfFrom_cons_iff.2 ⟨h1, hv, hm⟩)
    · subst h2; exact cons_wfFrom hx hm
    · exact wfFrom_cons_iff.2 ⟨hx, hv, ih (by omega) hm⟩

/-- A byte write keeps the canonical form. -/
theorem Memory.write_wf {m : Memory} (hm : m.wf = true) (a : Nat) (b : Byte) : (m.write a b).wf = true :=
  write_wfFrom (Nat.zero_le a) hm

/-- A word write keeps the canonical form. -/
theorem Memory.writeWord_wf {m : Memory} (hm : m.wf = true) (k : Nat) (w : Word) : (m.writeWord k w).wf = true :=
  write_wf (write_wf (write_wf (write_wf hm _ _) _ _) _ _) _ _

theorem Memory.read_below {m : Memory} {lo a : Nat} (hm : wfFrom lo m = true) (ha : a < lo) : m.read a = 0 := by
  induction m generalizing lo with
  | nil => rfl
  | cons c m ih =>
    obtain ⟨x, v⟩ := c
    obtain ⟨hx, -, hm⟩ := wfFrom_cons_iff.1 hm
    simp only [read, if_neg (show a ≠ x by omega)]
    exact ih hm (by omega)

theorem Memory.read_cons {m : Memory} {a : Nat} {b : Byte} (hm : wfFrom (a + 1) m = true) (i : Nat) :
    (cons a b m).read i = if i = a then b else m.read i := by
  unfold cons
  split_ifs with hb hi hi
  · subst hi; rw [hb]; exact read_below hm (by omega)
  · rfl
  · simp [read, hi]
  · simp [read, hi]

theorem Memory.read_write_from {m : Memory} {lo : Nat} (hm : wfFrom lo m = true) (a : Nat) (b : Byte) (i : Nat) :
    (m.write a b).read i = if i = a then b else m.read i := by
  induction m generalizing lo with
  | nil => exact read_cons rfl i
  | cons c m ih =>
    obtain ⟨x, v⟩ := c
    obtain ⟨hx, hv, hm⟩ := wfFrom_cons_iff.1 hm
    by_cases h1 : a < x
    · rw [write, if_pos h1, read_cons (wfFrom_cons_iff.2 ⟨h1, hv, hm⟩)]
    by_cases h2 : a = x
    · subst h2
      rw [write, if_neg h1, if_pos rfl, read_cons hm]
      by_cases hi : i = a <;> simp [read, hi]
    · rw [write, if_neg h1, if_neg h2]
      by_cases hi : i = x
      · simp [read, hi, show x ≠ a by omega]
      · simp [read, hi, ih hm]

/-- A read after a byte write: the byte written there, and every other place as before. -/
theorem Memory.read_write {m : Memory} (hm : m.wf = true) (a : Nat) (b : Byte) (i : Nat) :
    (m.write a b).read i = if i = a then b else m.read i :=
  read_write_from hm a b i

/-- A read after a word write (20_memory.md R54). -/
theorem Memory.read_writeWord {m : Memory} (hm : m.wf = true) (k : Nat) (w : Word) (i : Nat) :
    (m.writeWord k w).read i =
      if i = 4 * k + 3 then lane w 3 else if i = 4 * k + 2 then lane w 2
      else if i = 4 * k + 1 then lane w 1 else if i = 4 * k then lane w 0 else m.read i := by
  have h0 := write_wf hm (4 * k) (lane w 0)
  have h1 := write_wf h0 (4 * k + 1) (lane w 1)
  have h2 := write_wf h1 (4 * k + 2) (lane w 2)
  simp only [writeWord, read_write h2, read_write h1, read_write h0, read_write hm]

/-- The empty memory is in canonical form. -/
theorem Memory.nil_wf : Memory.wf [] = true := rfl

theorem Memory.ext_from {m m' : Memory} {lo : Nat} (hm : wfFrom lo m = true) (hm' : wfFrom lo m' = true)
    (h : ∀ i, m.read i = m'.read i) : m = m' := by
  induction m generalizing lo m' with
  | nil =>
    cases m' with
    | nil => rfl
    | cons c m' =>
      obtain ⟨y, u⟩ := c
      obtain ⟨-, hu, -⟩ := wfFrom_cons_iff.1 hm'
      have := h y
      simp [read] at this
      exact absurd this.symm hu
  | cons c m ih =>
    obtain ⟨x, v⟩ := c
    obtain ⟨hx, hv, hm⟩ := wfFrom_cons_iff.1 hm
    cases m' with
    | nil =>
      have := h x
      simp [read] at this
      exact absurd this hv
    | cons c m' =>
      obtain ⟨y, u⟩ := c
      obtain ⟨hy, hu, hm''⟩ := wfFrom_cons_iff.1 hm'
      have hxy : x = y := by
        rcases Nat.lt_trichotomy x y with hlt | heq | hgt
        · have := h x
          simp only [read, if_true, if_neg (show x ≠ y by omega), read_below hm'' (show x < y + 1 by omega)] at this
          exact absurd this hv
        · exact heq
        · have := h y
          simp only [read, if_true, if_neg (show y ≠ x by omega), read_below hm (show y < x + 1 by omega)] at this
          exact absurd this.symm hu
      subst hxy
      have huv : v = u := by simpa [read] using h x
      subst huv
      suffices h' : ∀ i, Memory.read m i = Memory.read m' i by rw [ih hm hm'' h']
      intro i
      by_cases hi : i = x
      · subst hi; rw [read_below hm (by omega), read_below hm'' (by omega)]
      · simpa [read, hi] using h i

/-- Two memories in canonical form that read alike are equal. -/
theorem Memory.ext_of_wf {m m' : Memory} (hm : m.wf = true) (hm' : m'.wf = true)
    (h : ∀ i, m.read i = m'.read i) : m = m' :=
  ext_from hm hm' h

end Sys2Proof.Machine
end

