-- ==== Sys2Proof/Laws/State.lean ====
section
/-! SUPPORT. What each named update of the state leaves in each field: one lemma per field per update, so that no
later proof unfolds a record update. -/

namespace Sys2Proof.Machine

variable (s : State) (w : Word) (st : Status) (e : CmdError)

/-! ### Acceptance, completion, a dropped write -/

@[simp] theorem State.accept_cfg : (s.accept w).cfg = s.cfg := rfl
@[simp] theorem State.accept_status : (s.accept w).status = s.status.accepted := rfl
@[simp] theorem State.accept_time : (s.accept w).time = s.time := rfl
@[simp] theorem State.accept_keyLen : (s.accept w).keyLen = s.keyLen := rfl
@[simp] theorem State.accept_step : (s.accept w).step = s.step := rfl
@[simp] theorem State.accept_trunc : (s.accept w).trunc = s.trunc := rfl
@[simp] theorem State.accept_offset : (s.accept w).offset = s.offset := rfl
@[simp] theorem State.accept_codeIdx : (s.accept w).codeIdx = s.codeIdx := rfl
@[simp] theorem State.accept_codeLo : (s.accept w).codeLo = s.codeLo := rfl
@[simp] theorem State.accept_codeHi : (s.accept w).codeHi = s.codeHi := rfl
@[simp] theorem State.accept_digest : (s.accept w).digest = s.digest := rfl
@[simp] theorem State.accept_key : (s.accept w).key = s.key := rfl
@[simp] theorem State.accept_seq : (s.accept w).seq = .inflight w := rfl
@[simp] theorem State.accept_schedule : (s.accept w).schedule = s.schedule := rfl
@[simp] theorem State.accept_reads : (s.accept w).reads = s.reads := rfl
@[simp] theorem State.accept_draws : (s.accept w).draws = s.draws := rfl
@[simp] theorem State.accept_drawCount : (s.accept w).drawCount = s.drawCount := rfl

@[simp] theorem State.retire_cfg : (s.retire st).cfg = s.cfg := rfl
@[simp] theorem State.retire_status : (s.retire st).status = st := rfl
@[simp] theorem State.retire_time : (s.retire st).time = s.time := rfl
@[simp] theorem State.retire_keyLen : (s.retire st).keyLen = s.keyLen := rfl
@[simp] theorem State.retire_step : (s.retire st).step = s.step := rfl
@[simp] theorem State.retire_trunc : (s.retire st).trunc = s.trunc := rfl
@[simp] theorem State.retire_offset : (s.retire st).offset = s.offset := rfl
@[simp] theorem State.retire_codeIdx : (s.retire st).codeIdx = s.codeIdx := rfl
@[simp] theorem State.retire_codeLo : (s.retire st).codeLo = s.codeLo := rfl
@[simp] theorem State.retire_codeHi : (s.retire st).codeHi = s.codeHi := rfl
@[simp] theorem State.retire_digest : (s.retire st).digest = s.digest := rfl
@[simp] theorem State.retire_key : (s.retire st).key = s.key := rfl
@[simp] theorem State.retire_seq : (s.retire st).seq = .idle := rfl
@[simp] theorem State.retire_schedule : (s.retire st).schedule = s.schedule := rfl
@[simp] theorem State.retire_reads : (s.retire st).reads = s.reads := rfl
@[simp] theorem State.retire_draws : (s.retire st).draws = s.draws := rfl
@[simp] theorem State.retire_drawCount : (s.retire st).drawCount = s.drawCount := rfl

@[simp] theorem State.failed_cfg : (s.failed e).cfg = s.cfg := rfl
@[simp] theorem State.failed_status : (s.failed e).status = s.status.failed e := rfl
@[simp] theorem State.failed_time : (s.failed e).time = s.time := rfl
@[simp] theorem State.failed_keyLen : (s.failed e).keyLen = s.keyLen := rfl
@[simp] theorem State.failed_step : (s.failed e).step = s.step := rfl
@[simp] theorem State.failed_trunc : (s.failed e).trunc = s.trunc := rfl
@[simp] theorem State.failed_offset : (s.failed e).offset = s.offset := rfl
@[simp] theorem State.failed_codeIdx : (s.failed e).codeIdx = s.codeIdx := rfl
@[simp] theorem State.failed_codeLo : (s.failed e).codeLo = s.codeLo := rfl
@[simp] theorem State.failed_codeHi : (s.failed e).codeHi = s.codeHi := rfl
@[simp] theorem State.failed_digest : (s.failed e).digest = s.digest := rfl
@[simp] theorem State.failed_key : (s.failed e).key = s.key := rfl
@[simp] theorem State.failed_seq : (s.failed e).seq = .idle := rfl
@[simp] theorem State.failed_schedule : (s.failed e).schedule = s.schedule := rfl
@[simp] theorem State.failed_reads : (s.failed e).reads = s.reads := rfl
@[simp] theorem State.failed_draws : (s.failed e).draws = s.draws := rfl
@[simp] theorem State.failed_drawCount : (s.failed e).drawCount = s.drawCount := rfl

@[simp] theorem State.ignoreWrite_cfg : (s.ignoreWrite).cfg = s.cfg := rfl
@[simp] theorem State.ignoreWrite_status : (s.ignoreWrite).status = s.status.ignored := rfl
@[simp] theorem State.ignoreWrite_time : (s.ignoreWrite).time = s.time := rfl
@[simp] theorem State.ignoreWrite_keyLen : (s.ignoreWrite).keyLen = s.keyLen := rfl
@[simp] theorem State.ignoreWrite_step : (s.ignoreWrite).step = s.step := rfl
@[simp] theorem State.ignoreWrite_trunc : (s.ignoreWrite).trunc = s.trunc := rfl
@[simp] theorem State.ignoreWrite_offset : (s.ignoreWrite).offset = s.offset := rfl
@[simp] theorem State.ignoreWrite_codeIdx : (s.ignoreWrite).codeIdx = s.codeIdx := rfl
@[simp] theorem State.ignoreWrite_codeLo : (s.ignoreWrite).codeLo = s.codeLo := rfl
@[simp] theorem State.ignoreWrite_codeHi : (s.ignoreWrite).codeHi = s.codeHi := rfl
@[simp] theorem State.ignoreWrite_digest : (s.ignoreWrite).digest = s.digest := rfl
@[simp] theorem State.ignoreWrite_key : (s.ignoreWrite).key = s.key := rfl
@[simp] theorem State.ignoreWrite_seq : (s.ignoreWrite).seq = s.seq := rfl
@[simp] theorem State.ignoreWrite_schedule : (s.ignoreWrite).schedule = s.schedule := rfl
@[simp] theorem State.ignoreWrite_reads : (s.ignoreWrite).reads = s.reads := rfl
@[simp] theorem State.ignoreWrite_draws : (s.ignoreWrite).draws = s.draws := rfl
@[simp] theorem State.ignoreWrite_drawCount : (s.ignoreWrite).drawCount = s.drawCount := rfl

/-! ### Reset -/

@[simp] theorem State.takeReset_cfg : (s.takeReset).cfg = s.cfg := rfl
@[simp] theorem State.takeReset_status : (s.takeReset).status = Status.cleared := rfl
@[simp] theorem State.takeReset_time : (s.takeReset).time = 0 := rfl
@[simp] theorem State.takeReset_keyLen : (s.takeReset).keyLen = 0 := rfl
@[simp] theorem State.takeReset_step : (s.takeReset).step = 0 := rfl
@[simp] theorem State.takeReset_trunc : (s.takeReset).trunc = 0 := rfl
@[simp] theorem State.takeReset_offset : (s.takeReset).offset = 0 := rfl
@[simp] theorem State.takeReset_codeIdx : (s.takeReset).codeIdx = 0 := rfl
@[simp] theorem State.takeReset_codeLo : (s.takeReset).codeLo = 0 := rfl
@[simp] theorem State.takeReset_codeHi : (s.takeReset).codeHi = 0 := rfl
@[simp] theorem State.takeReset_digest : (s.takeReset).digest = Vector.replicate 20 0 := rfl
@[simp] theorem State.takeReset_key : (s.takeReset).key = [] := rfl
@[simp] theorem State.takeReset_seq : (s.takeReset).seq = .idle := rfl
@[simp] theorem State.takeReset_schedule : (s.takeReset).schedule = s.schedule := rfl
@[simp] theorem State.takeReset_reads : (s.takeReset).reads = s.reads := rfl
@[simp] theorem State.takeReset_draws : (s.takeReset).draws = s.draws := rfl
@[simp] theorem State.takeReset_drawCount : (s.takeReset).drawCount = s.drawCount := rfl

/-! ### One staged result -/

@[simp] theorem State.put_time_time (v : Word) : (s.put (.time v)).time = v := rfl
@[simp] theorem State.put_time_step (v : Word) : (s.put (.time v)).step = s.step := rfl
@[simp] theorem State.put_time_digest (v : Word) : (s.put (.time v)).digest = s.digest := rfl
@[simp] theorem State.put_time_offset (v : Word) : (s.put (.time v)).offset = s.offset := rfl
@[simp] theorem State.put_time_trunc (v : Word) : (s.put (.time v)).trunc = s.trunc := rfl
@[simp] theorem State.put_time_codeIdx (v : Word) : (s.put (.time v)).codeIdx = s.codeIdx := rfl
@[simp] theorem State.put_time_codeLo (v : Word) : (s.put (.time v)).codeLo = s.codeLo := rfl
@[simp] theorem State.put_time_codeHi (v : Word) : (s.put (.time v)).codeHi = s.codeHi := rfl

@[simp] theorem State.put_step_time (v : Word) : (s.put (.step v)).time = s.time := rfl
@[simp] theorem State.put_step_step (v : Word) : (s.put (.step v)).step = v := rfl
@[simp] theorem State.put_step_digest (v : Word) : (s.put (.step v)).digest = s.digest := rfl
@[simp] theorem State.put_step_offset (v : Word) : (s.put (.step v)).offset = s.offset := rfl
@[simp] theorem State.put_step_trunc (v : Word) : (s.put (.step v)).trunc = s.trunc := rfl
@[simp] theorem State.put_step_codeIdx (v : Word) : (s.put (.step v)).codeIdx = s.codeIdx := rfl
@[simp] theorem State.put_step_codeLo (v : Word) : (s.put (.step v)).codeLo = s.codeLo := rfl
@[simp] theorem State.put_step_codeHi (v : Word) : (s.put (.step v)).codeHi = s.codeHi := rfl

@[simp] theorem State.put_digest_time (v : Digest) : (s.put (.digest v)).time = s.time := rfl
@[simp] theorem State.put_digest_step (v : Digest) : (s.put (.digest v)).step = s.step := rfl
@[simp] theorem State.put_digest_digest (v : Digest) : (s.put (.digest v)).digest = v := rfl
@[simp] theorem State.put_digest_offset (v : Digest) : (s.put (.digest v)).offset = s.offset := rfl
@[simp] theorem State.put_digest_trunc (v : Digest) : (s.put (.digest v)).trunc = s.trunc := rfl
@[simp] theorem State.put_digest_codeIdx (v : Digest) : (s.put (.digest v)).codeIdx = s.codeIdx := rfl
@[simp] theorem State.put_digest_codeLo (v : Digest) : (s.put (.digest v)).codeLo = s.codeLo := rfl
@[simp] theorem State.put_digest_codeHi (v : Digest) : (s.put (.digest v)).codeHi = s.codeHi := rfl

@[simp] theorem State.put_offset_time (v : BitVec 4) : (s.put (.offset v)).time = s.time := rfl
@[simp] theorem State.put_offset_step (v : BitVec 4) : (s.put (.offset v)).step = s.step := rfl
@[simp] theorem State.put_offset_digest (v : BitVec 4) : (s.put (.offset v)).digest = s.digest := rfl
@[simp] theorem State.put_offset_offset (v : BitVec 4) : (s.put (.offset v)).offset = v := rfl
@[simp] theorem State.put_offset_trunc (v : BitVec 4) : (s.put (.offset v)).trunc = s.trunc := rfl
@[simp] theorem State.put_offset_codeIdx (v : BitVec 4) : (s.put (.offset v)).codeIdx = s.codeIdx := rfl
@[simp] theorem State.put_offset_codeLo (v : BitVec 4) : (s.put (.offset v)).codeLo = s.codeLo := rfl
@[simp] theorem State.put_offset_codeHi (v : BitVec 4) : (s.put (.offset v)).codeHi = s.codeHi := rfl

@[simp] theorem State.put_trunc_time (v : BitVec 31) : (s.put (.trunc v)).time = s.time := rfl
@[simp] theorem State.put_trunc_step (v : BitVec 31) : (s.put (.trunc v)).step = s.step := rfl
@[simp] theorem State.put_trunc_digest (v : BitVec 31) : (s.put (.trunc v)).digest = s.digest := rfl
@[simp] theorem State.put_trunc_offset (v : BitVec 31) : (s.put (.trunc v)).offset = s.offset := rfl
@[simp] theorem State.put_trunc_trunc (v : BitVec 31) : (s.put (.trunc v)).trunc = v := rfl
@[simp] theorem State.put_trunc_codeIdx (v : BitVec 31) : (s.put (.trunc v)).codeIdx = s.codeIdx := rfl
@[simp] theorem State.put_trunc_codeLo (v : BitVec 31) : (s.put (.trunc v)).codeLo = s.codeLo := rfl
@[simp] theorem State.put_trunc_codeHi (v : BitVec 31) : (s.put (.trunc v)).codeHi = s.codeHi := rfl

@[simp] theorem State.put_codeIdx_time (v : BitVec 25) : (s.put (.codeIdx v)).time = s.time := rfl
@[simp] theorem State.put_codeIdx_step (v : BitVec 25) : (s.put (.codeIdx v)).step = s.step := rfl
@[simp] theorem State.put_codeIdx_digest (v : BitVec 25) : (s.put (.codeIdx v)).digest = s.digest := rfl
@[simp] theorem State.put_codeIdx_offset (v : BitVec 25) : (s.put (.codeIdx v)).offset = s.offset := rfl
@[simp] theorem State.put_codeIdx_trunc (v : BitVec 25) : (s.put (.codeIdx v)).trunc = s.trunc := rfl
@[simp] theorem State.put_codeIdx_codeIdx (v : BitVec 25) : (s.put (.codeIdx v)).codeIdx = v := rfl
@[simp] theorem State.put_codeIdx_codeLo (v : BitVec 25) : (s.put (.codeIdx v)).codeLo = s.codeLo := rfl
@[simp] theorem State.put_codeIdx_codeHi (v : BitVec 25) : (s.put (.codeIdx v)).codeHi = s.codeHi := rfl

@[simp] theorem State.put_codeLo_time (v : Word) : (s.put (.codeLo v)).time = s.time := rfl
@[simp] theorem State.put_codeLo_step (v : Word) : (s.put (.codeLo v)).step = s.step := rfl
@[simp] theorem State.put_codeLo_digest (v : Word) : (s.put (.codeLo v)).digest = s.digest := rfl
@[simp] theorem State.put_codeLo_offset (v : Word) : (s.put (.codeLo v)).offset = s.offset := rfl
@[simp] theorem State.put_codeLo_trunc (v : Word) : (s.put (.codeLo v)).trunc = s.trunc := rfl
@[simp] theorem State.put_codeLo_codeIdx (v : Word) : (s.put (.codeLo v)).codeIdx = s.codeIdx := rfl
@[simp] theorem State.put_codeLo_codeLo (v : Word) : (s.put (.codeLo v)).codeLo = v := rfl
@[simp] theorem State.put_codeLo_codeHi (v : Word) : (s.put (.codeLo v)).codeHi = s.codeHi := rfl

@[simp] theorem State.put_codeHi_time (v : Byte) : (s.put (.codeHi v)).time = s.time := rfl
@[simp] theorem State.put_codeHi_step (v : Byte) : (s.put (.codeHi v)).step = s.step := rfl
@[simp] theorem State.put_codeHi_digest (v : Byte) : (s.put (.codeHi v)).digest = s.digest := rfl
@[simp] theorem State.put_codeHi_offset (v : Byte) : (s.put (.codeHi v)).offset = s.offset := rfl
@[simp] theorem State.put_codeHi_trunc (v : Byte) : (s.put (.codeHi v)).trunc = s.trunc := rfl
@[simp] theorem State.put_codeHi_codeIdx (v : Byte) : (s.put (.codeHi v)).codeIdx = s.codeIdx := rfl
@[simp] theorem State.put_codeHi_codeLo (v : Byte) : (s.put (.codeHi v)).codeLo = s.codeLo := rfl
@[simp] theorem State.put_codeHi_codeHi (v : Byte) : (s.put (.codeHi v)).codeHi = v := rfl

/-! ### The fields no command result goes to -/

@[simp] theorem State.put_cfg (x : Staged) : (s.put x).cfg = s.cfg := by cases x <;> rfl
@[simp] theorem State.put_status (x : Staged) : (s.put x).status = s.status := by cases x <;> rfl
@[simp] theorem State.put_keyLen (x : Staged) : (s.put x).keyLen = s.keyLen := by cases x <;> rfl
@[simp] theorem State.put_key (x : Staged) : (s.put x).key = s.key := by cases x <;> rfl
@[simp] theorem State.put_seq (x : Staged) : (s.put x).seq = s.seq := by cases x <;> rfl
@[simp] theorem State.put_schedule (x : Staged) : (s.put x).schedule = s.schedule := by cases x <;> rfl
@[simp] theorem State.put_reads (x : Staged) : (s.put x).reads = s.reads := by cases x <;> rfl
@[simp] theorem State.put_draws (x : Staged) : (s.put x).draws = s.draws := by cases x <;> rfl
@[simp] theorem State.put_drawCount (x : Staged) : (s.put x).drawCount = s.drawCount := by cases x <;> rfl

@[simp] theorem State.commit_cfg (ws : List Staged) : (s.commit ws).cfg = s.cfg := by
  unfold State.commit
  induction ws generalizing s with
  | nil => rfl
  | cons x ws ih => simp [List.foldl_cons, ih]

@[simp] theorem State.commit_status (ws : List Staged) : (s.commit ws).status = s.status := by
  unfold State.commit
  induction ws generalizing s with
  | nil => rfl
  | cons x ws ih => simp [List.foldl_cons, ih]

@[simp] theorem State.commit_keyLen (ws : List Staged) : (s.commit ws).keyLen = s.keyLen := by
  unfold State.commit
  induction ws generalizing s with
  | nil => rfl
  | cons x ws ih => simp [List.foldl_cons, ih]

@[simp] theorem State.commit_key (ws : List Staged) : (s.commit ws).key = s.key := by
  unfold State.commit
  induction ws generalizing s with
  | nil => rfl
  | cons x ws ih => simp [List.foldl_cons, ih]

@[simp] theorem State.commit_seq (ws : List Staged) : (s.commit ws).seq = s.seq := by
  unfold State.commit
  induction ws generalizing s with
  | nil => rfl
  | cons x ws ih => simp [List.foldl_cons, ih]

@[simp] theorem State.commit_schedule (ws : List Staged) : (s.commit ws).schedule = s.schedule := by
  unfold State.commit
  induction ws generalizing s with
  | nil => rfl
  | cons x ws ih => simp [List.foldl_cons, ih]

@[simp] theorem State.commit_reads (ws : List Staged) : (s.commit ws).reads = s.reads := by
  unfold State.commit
  induction ws generalizing s with
  | nil => rfl
  | cons x ws ih => simp [List.foldl_cons, ih]

@[simp] theorem State.commit_draws (ws : List Staged) : (s.commit ws).draws = s.draws := by
  unfold State.commit
  induction ws generalizing s with
  | nil => rfl
  | cons x ws ih => simp [List.foldl_cons, ih]

@[simp] theorem State.commit_drawCount (ws : List Staged) : (s.commit ws).drawCount = s.drawCount := by
  unfold State.commit
  induction ws generalizing s with
  | nil => rfl
  | cons x ws ih => simp [List.foldl_cons, ih]

@[simp] theorem State.commit_nil : s.commit [] = s := rfl

@[simp] theorem State.commit_cons (x : Staged) (ws : List Staged) : s.commit (x :: ws) = (s.put x).commit ws := rfl

/-! ### A clock sample -/

@[simp] theorem State.sampleClock_cfg : s.sampleClock.2.cfg = s.cfg := by unfold State.sampleClock; split <;> rfl
@[simp] theorem State.sampleClock_status : s.sampleClock.2.status = s.status := by unfold State.sampleClock; split <;> rfl
@[simp] theorem State.sampleClock_time : s.sampleClock.2.time = s.time := by unfold State.sampleClock; split <;> rfl
@[simp] theorem State.sampleClock_keyLen : s.sampleClock.2.keyLen = s.keyLen := by unfold State.sampleClock; split <;> rfl
@[simp] theorem State.sampleClock_step : s.sampleClock.2.step = s.step := by unfold State.sampleClock; split <;> rfl
@[simp] theorem State.sampleClock_trunc : s.sampleClock.2.trunc = s.trunc := by unfold State.sampleClock; split <;> rfl
@[simp] theorem State.sampleClock_offset : s.sampleClock.2.offset = s.offset := by unfold State.sampleClock; split <;> rfl
@[simp] theorem State.sampleClock_codeIdx : s.sampleClock.2.codeIdx = s.codeIdx := by unfold State.sampleClock; split <;> rfl
@[simp] theorem State.sampleClock_codeLo : s.sampleClock.2.codeLo = s.codeLo := by unfold State.sampleClock; split <;> rfl
@[simp] theorem State.sampleClock_codeHi : s.sampleClock.2.codeHi = s.codeHi := by unfold State.sampleClock; split <;> rfl
@[simp] theorem State.sampleClock_digest : s.sampleClock.2.digest = s.digest := by unfold State.sampleClock; split <;> rfl
@[simp] theorem State.sampleClock_key : s.sampleClock.2.key = s.key := by unfold State.sampleClock; split <;> rfl
@[simp] theorem State.sampleClock_seq : s.sampleClock.2.seq = s.seq := by unfold State.sampleClock; split <;> rfl
@[simp] theorem State.sampleClock_schedule : s.sampleClock.2.schedule = s.schedule := by unfold State.sampleClock; split <;> rfl
@[simp] theorem State.sampleClock_reads : s.sampleClock.2.reads = s.reads := by unfold State.sampleClock; split <;> rfl

end Sys2Proof.Machine
end

