-- ==== Sys2Proof/Laws/Ops.lean ====
section
/-! SUPPORT. What the shared operations of a completion can do, said once: the end of a command body, the clock
sample, the key operand, and the shape every command's meaning has. -/

namespace Sys2Proof.Machine

/-! ### STATUS -/

@[simp] theorem Status.failed_ign (e : CmdError) (st : Status) : (st.failed e).ign = st.ign := rfl

@[simp] theorem Status.succeeded_ign (st : Status) : st.succeeded.ign = st.ign := rfl

@[simp] theorem Status.succeeded_fault (st : Status) : st.succeeded.fault = st.fault := rfl

@[simp] theorem Status.accepted_ign (st : Status) : st.accepted.ign = st.ign := rfl

@[simp] theorem Status.accepted_fault (st : Status) : st.accepted.fault = st.fault := rfl

/-- FAULT after a failure: latched by CLOCK, otherwise as before (60_exceptions.md R211). -/
theorem Status.failed_fault (e : CmdError) (st : Status) :
    (st.failed e).fault = (st.fault || decide (e = .clock)) := rfl

/-! ### The end of a command body -/

theorem finish_ok (ws : List Staged) (s : State) :
    finish (.ok ws) s = .next ((s.commit ws).retire s.status.succeeded) := rfl

theorem finish_badCmd (s : State) : finish (.error .badCmd) s = .next (s.failed .badCmd) := rfl

theorem finish_keySetup (s : State) : finish (.error .keySetup) s = .next (s.failed .keySetup) := rfl

theorem finish_clock (s : State) : finish (.error .clock) s = .fault (.clockError (s.failed .clock)) := rfl

/-- A body that ends in a next state either commits what it staged, or reports an error that is not CLOCK. -/
theorem finish_next {r : Except CmdError (List Staged)} {s t : State} (h : finish r s = .next t) :
    (∃ ws, r = .ok ws ∧ t = (s.commit ws).retire s.status.succeeded) ∨
    (∃ e, e ≠ .clock ∧ r = .error e ∧ t = s.failed e) := by
  cases r with
  | ok ws => exact .inl ⟨ws, rfl, by cases h; rfl⟩
  | error e =>
    cases e with
    | badCmd => exact .inr ⟨.badCmd, by decide, rfl, by cases h; rfl⟩
    | keySetup => exact .inr ⟨.keySetup, by decide, rfl, by cases h; rfl⟩
    | clock => cases h

/-- A body faults only by raising CLOCK, and the fault carries the state with FAULT latched. -/
theorem finish_fault {r : Except CmdError (List Staged)} {s : State} {f : Fault} (h : finish r s = .fault f) :
    r = .error .clock ∧ f = .clockError (s.failed .clock) := by
  cases r with
  | ok ws => cases h
  | error e =>
    cases e with
    | badCmd => cases h
    | keySetup => cases h
    | clock => cases h; exact ⟨rfl, rfl⟩

/-- No body is refused. -/
theorem finish_not_refused {r : Except CmdError (List Staged)} {s : State} {x : Refusal} :
    finish r s ≠ .refused x := by
  cases r with
  | ok ws => intro h; cases h
  | error e =>
    intro h
    cases e <;> cases h

/-! ### The clock sample -/

theorem sampleClock_cons {s : State} {c : ClockSample} {cs : List ClockSample} (h : s.draws = c :: cs) :
    s.sampleClock = (c, { s with draws := cs }) := by
  unfold State.sampleClock; rw [h]

theorem sampleClock_nil {s : State} (h : s.draws = []) :
    s.sampleClock = (Config.clockDraw s.drawCount, { s with drawCount := s.drawCount + 1 }) := by
  unfold State.sampleClock; rw [h]

/-! ### The key operand -/

theorem hmacKey_ok {s : State} (h : s.keyLen.toNat ≤ s.cfg.keyMax) :
    s.hmacKey = .ok (keyBytes s.key s.keyLen.toNat) := by
  unfold State.hmacKey; rw [if_neg (by omega)]

theorem hmacKey_error {s : State} (h : s.cfg.keyMax < s.keyLen.toNat) : s.hmacKey = .error .keySetup := by
  unfold State.hmacKey; rw [if_pos h]

theorem generate_error {s : State} {t : Word} {e : CmdError} (h : s.generate t = .error e) : e = .keySetup := by
  unfold State.generate State.hmacKey at h
  split_ifs at h
  cases h
  rfl

/-! ### Every command's meaning -/

/-- Every command's meaning is the end of one body, on the state itself or, for the two clock commands, on the state
after one clock sample; only those two can raise CLOCK, and only on an invalid sample. -/
theorem exec_shape (i : Instr) (s : State) :
    ∃ r u, exec i s = finish r u ∧
      ((u = s ∧ r ≠ .error .clock ∧ i ≠ .genNow ∧ i ≠ .readClock) ∨
       (u = s.sampleClock.2 ∧ (i = .genNow ∨ i = .readClock) ∧
         (r = .error .clock → s.sampleClock.1.valid = false))) := by
  have hk : ∀ e, s.hmacKey = .error e → e ≠ .clock := by
    intro e h
    unfold State.hmacKey at h
    split_ifs at h
    cases h
    decide
  have hg : ∀ (u : State) (t : Word), u.generate t ≠ .error .clock := by
    intro u t h
    have := generate_error h
    cases this
  cases i with
  | nop => exact ⟨.ok [], s, rfl, .inl ⟨rfl, by simp, by decide, by decide⟩⟩
  | step => exact ⟨.ok [.step (timeStep s.time)], s, rfl, .inl ⟨rfl, by simp, by decide, by decide⟩⟩
  | hmac =>
    refine ⟨_, s, rfl, .inl ⟨rfl, ?_, by decide, by decide⟩⟩
    split
    · rename_i e h
      intro h'
      cases h'
      exact hk _ h rfl
    · simp
  | trunc => exact ⟨.ok (stageTrunc s.digest), s, rfl, .inl ⟨rfl, by simp, by decide, by decide⟩⟩
  | encode => exact ⟨.ok (stageCode s.trunc), s, rfl, .inl ⟨rfl, by simp, by decide, by decide⟩⟩
  | genTime => exact ⟨_, s, rfl, .inl ⟨rfl, hg s s.time, by decide, by decide⟩⟩
  | genNow =>
    refine ⟨_, _, rfl, .inr ⟨rfl, .inl rfl, fun h => ?_⟩⟩
    unfold State.generateNow at h
    split_ifs at h with hv
    · split at h
      · rename_i e he
        cases h
        exact absurd he (hg _ _)
      · cases h
    · exact Bool.eq_false_iff.2 hv
  | readClock =>
    refine ⟨_, _, rfl, .inr ⟨rfl, .inr rfl, fun h => ?_⟩⟩
    split_ifs at h with hv
    exact Bool.eq_false_iff.2 hv

end Sys2Proof.Machine
end

