-- ==== Sys2Proof/Laws/PerInstr.lean ====
section
/-! SUPPORT. Statements made of every command, one lemma per constructor. -/

namespace Sys2Proof.Laws.CmdFormat

/-- The word of a command has the form CMD32 (30_encoding.md R71, R73): RSVD is 0 and OP is one of 0x00 to 0x07; and
a command has no operand that could be ill formed (R72). -/
def Statement (i : Instr) : Prop :=
  rsvdField (encode i) = 0 ∧ (opField (encode i)).toNat < 8 ∧ i.wf = true

theorem nop : Statement .nop := by unfold Statement; decide
theorem step : Statement .step := by unfold Statement; decide
theorem hmac : Statement .hmac := by unfold Statement; decide
theorem trunc : Statement .trunc := by unfold Statement; decide
theorem encode : Statement .encode := by unfold Statement; decide
theorem genTime : Statement .genTime := by unfold Statement; decide
theorem genNow : Statement .genNow := by unfold Statement; decide
theorem readClock : Statement .readClock := by unfold Statement; decide

end Sys2Proof.Laws.CmdFormat
end

