-- ==== Sys2Proof/Laws/Step.lean ====
section
/-! SUPPORT. What one step can do, said once: whose move it is, and what a move does. -/

namespace Sys2Proof.Machine

/-! ### Whose move it is -/

theorem step_cons {s : State} {e : Event} {es : List Event} (h : s.schedule = e :: es) :
    step s = move e { s with schedule := es } := by
  unfold step agentStep; rw [h]

theorem step_nil {s : State} (h : s.schedule = []) : step s = sequencerTurn s := by
  unfold step agentStep; rw [h]

/-! ### The sequencer -/

theorem sequencerTurn_idle {s : State} (h : s.seq = .idle) : sequencerTurn s = .next s := by
  unfold sequencerTurn; rw [h]

theorem sequencerTurn_inflight {s : State} {w : Word} (h : s.seq = .inflight w) :
    sequencerTurn s = complete w s := by
  unfold sequencerTurn; rw [h]

theorem complete_ok {s : State} {w : Word} {i : Instr} (h : decode w = .ok i) : complete w s = exec i s := by
  unfold complete; rw [h]

theorem complete_error {s : State} {w : Word} {d : DecodeError} (h : decode w = .error d) :
    complete w s = .next (s.failed .badCmd) := by
  unfold complete; rw [h]; rfl

/-- A completion is the end of one body, on the state itself or on the state after one clock sample. -/
theorem complete_shape (w : Word) (s : State) :
    ∃ r u, complete w s = finish r u ∧
      ((u = s ∧ r ≠ .error .clock) ∨
       (u = s.sampleClock.2 ∧ (decode w = .ok .genNow ∨ decode w = .ok .readClock) ∧
         (r = .error .clock → s.sampleClock.1.valid = false))) := by
  cases hd : decode w with
  | error d => exact ⟨.error .badCmd, s, complete_error hd, .inl ⟨rfl, by simp⟩⟩
  | ok i =>
    obtain ⟨r, u, he, h⟩ := exec_shape i s
    refine ⟨r, u, by rw [complete_ok hd, he], ?_⟩
    rcases h with ⟨hu, hr, -, -⟩ | ⟨hu, hi, hr⟩
    · exact .inl ⟨hu, hr⟩
    · exact .inr ⟨hu, by simpa using hi, hr⟩

/-! ### The host -/

theorem accessWf_iff {off : Offset} {width : Nat} :
    accessWf off width = true ↔ width = 4 ∧ off.toNat % 4 = 0 := by
  simp [accessWf]

theorem hostRead_ok {off : Offset} {s : State} (h : off.toNat % 4 = 0) :
    hostRead off 4 s = .next { s with reads := s.reads ++ [s.readReg (regAt s.cfg off)] } := by
  unfold hostRead; rw [if_pos (accessWf_iff.2 ⟨rfl, h⟩)]

theorem hostWrite_ok {off : Offset} {w : Word} {s : State} (h : off.toNat % 4 = 0) :
    hostWrite off 4 w s = .next (s.writeReg (regAt s.cfg off) w) := by
  unfold hostWrite; rw [if_pos (accessWf_iff.2 ⟨rfl, h⟩)]

theorem hostRead_fault {off : Offset} {width : Nat} {s : State} (h : width ≠ 4 ∨ off.toNat % 4 ≠ 0) :
    hostRead off width s = .fault (.busError off width) := by
  unfold hostRead; rw [if_neg (by rw [accessWf_iff]; tauto)]

theorem hostWrite_fault {off : Offset} {width : Nat} {w : Word} {s : State} (h : width ≠ 4 ∨ off.toNat % 4 ≠ 0) :
    hostWrite off width w s = .fault (.busError off width) := by
  unfold hostWrite; rw [if_neg (by rw [accessWf_iff]; tauto)]

/-! ### Input registers -/

theorem writeInput_idle {s s' : State} (h : s.seq = .idle) : s.writeInput s' = s' := by
  unfold State.writeInput; rw [h]

theorem writeInput_inflight {s s' : State} {w : Word} (h : s.seq = .inflight w) :
    s.writeInput s' = s.ignoreWrite := by
  unfold State.writeInput; rw [h]

theorem writeCmd_accept {s : State} {w : Word} (h : s.seq = .idle) (hf : s.status.fault = false) :
    s.writeCmd w = s.accept w := by
  unfold State.writeCmd; rw [h]; simp [hf]

theorem writeCmd_fault {s : State} {w : Word} (h : s.seq = .idle) (hf : s.status.fault = true) :
    s.writeCmd w = s.ignoreWrite := by
  unfold State.writeCmd; rw [h]; simp [hf]

theorem writeCmd_inflight {s : State} {w c : Word} (h : s.seq = .inflight c) : s.writeCmd w = s.ignoreWrite := by
  unfold State.writeCmd; rw [h]

/-- What a write to the window can make of the block (20_memory.md R55, R57). -/
inductive WriteShape (s : State) (r : Reg) (w : Word) : State → Prop where
  /-- Nothing: a read-only or reserved offset. -/
  | same : WriteShape s r w s
  /-- The write is dropped: IGN is set. -/
  | ignored : WriteShape s r w s.ignoreWrite
  /-- A STATUS write: IGN may be cleared. -/
  | cleared : WriteShape s r w { s with status := s.status.written w }
  /-- A CMD write is accepted. -/
  | accepted (hq : s.seq = .idle) (hf : s.status.fault = false) : WriteShape s r w (s.accept w)
  /-- An input register is stored, with no command in flight. -/
  | time (hq : s.seq = .idle) (v : Word) : WriteShape s r w { s with time := v }
  | keyLen (hq : s.seq = .idle) (v : Word) : WriteShape s r w { s with keyLen := v }
  | step (hq : s.seq = .idle) (v : Word) : WriteShape s r w { s with step := v }
  | trunc (hq : s.seq = .idle) (v : BitVec 31) : WriteShape s r w { s with trunc := v }
  | digest (hq : s.seq = .idle) (d : Digest) : WriteShape s r w { s with digest := d }
  | key (hq : s.seq = .idle) (k : Nat) (hr : r = .key k) :
      WriteShape s r w { s with key := s.key.writeWord k w }

/-- Every write to the window has one of the shapes. -/
theorem writeReg_shape (s : State) (r : Reg) (w : Word) : WriteShape s r w (s.writeReg r w) := by
  have input : ∀ s', (s.seq = .idle → WriteShape s r w s') → WriteShape s r w (s.writeInput s') := by
    intro s' h
    cases hq : s.seq with
    | idle => rw [writeInput_idle hq]; exact h hq
    | inflight c => rw [writeInput_inflight hq]; exact .ignored
  cases r with
  | cmd =>
    show WriteShape s .cmd w (s.writeCmd w)
    cases hq : s.seq with
    | inflight c => rw [writeCmd_inflight hq]; exact .ignored
    | idle =>
      cases hf : s.status.fault with
      | true => rw [writeCmd_fault hq hf]; exact .ignored
      | false => rw [writeCmd_accept hq hf]; exact .accepted hq hf
  | status => exact .cleared
  | time => exact input _ fun hq => .time hq w
  | keyLen => exact input _ fun hq => .keyLen hq w
  | step => exact input _ fun hq => .step hq w
  | trunc => exact input _ fun hq => .trunc hq _
  | digest k => exact input _ fun hq => .digest hq _
  | key k => exact input _ fun hq => .key hq k rfl
  | offset => exact .same
  | codeIdx => exact .same
  | codeLo => exact .same
  | codeHi => exact .same
  | reserved => exact .same

theorem scalarAt_ne_key {j k : Nat} : scalarAt j ≠ .key k := by
  unfold scalarAt
  split <;> simp

/-- A key word that the map names is implemented (10_state.md R21). -/
theorem regAtNat_key {c : Config} {n k : Nat} (h : regAtNat c n = .key k) :
    k < c.keyMax / 4 ∧ k = (n - 0x400) / 4 ∧ 0x400 ≤ n ∧ n < 0x800 := by
  unfold regAtNat at h
  split_ifs at h with h1 h2 h3
  · exact absurd h scalarAt_ne_key
  · cases h
    exact ⟨h3.2.2, rfl, h3.1, h3.2.1⟩

end Sys2Proof.Machine
end

