-- ==== Sys2Proof/Laws/Run.lean ====
section
/-! SUPPORT. The laws of the end of a run: a step uses up one move, a settled state is its own end, and a
run goes on past one that is not. -/

namespace Sys2Proof.Machine

/-! ### The moves to come -/

theorem sequencerTurn_schedule {s t : State} (h : sequencerTurn s = .next t) : t.schedule = s.schedule := by
  cases hq : s.seq with
  | idle => rw [sequencerTurn_idle hq] at h; cases h; rfl
  | inflight w =>
    obtain ⟨r, u, hc, hu⟩ := complete_shape w s
    have hs : u.schedule = s.schedule := by
      rcases hu with ⟨rfl, -⟩ | ⟨rfl, -⟩
      · rfl
      · exact State.sampleClock_schedule _
    rw [sequencerTurn_inflight hq, hc] at h
    rcases finish_next h with ⟨ws, -, rfl⟩ | ⟨e, -, -, rfl⟩ <;> simp [hs]

/-- A step uses up the first move of the schedule. -/
theorem step_schedule {s t : State} (h : step s = .next t) : t.schedule = s.schedule.tail := by
  cases hs : s.schedule with
  | nil => rw [step_nil hs] at h; rw [sequencerTurn_schedule h, hs]; rfl
  | cons e es =>
    rw [step_cons hs] at h
    cases e with
    | read off width =>
      simp only [move, hostRead] at h
      split at h <;> cases h
      rfl
    | write off width w =>
      simp only [move, hostWrite] at h
      split at h <;> cases h
      have hw := writeReg_shape { s with schedule := es } (regAt s.cfg off) w
      generalize State.writeReg { s with schedule := es } (regAt s.cfg off) w = v at hw ⊢
      cases hw <;> rfl
    | sequencer => exact sequencerTurn_schedule h
    | reset => cases h; rfl

/-! ### The end of a run -/

theorem endState_settled {s : State} (n : Nat) (h : s.settled = true) : s.endState n = some s := by
  cases n <;> simp [State.endState, h]

theorem endState_next {s t : State} (n : Nat) (h : s.settled = false) (hs : step s = .next t) :
    s.endState (n + 1) = t.endState n := by
  simp [State.endState, h, hs]

theorem endState_fault {s : State} {f : Fault} (n : Nat) (h : s.settled = false) (hs : step s = .fault f) :
    s.endState n = none := by
  cases n <;> simp [State.endState, h, hs]

/-- A state that lists a host access is not settled. -/
theorem not_settled_of_host {s : State} {e : Event} (h : e ∈ s.schedule) (he : e.byHost = true) :
    s.settled = false := by
  have : s.hostDone = false := by
    unfold State.hostDone
    rw [List.all_eq_false]
    exact ⟨e, h, by simp [he]⟩
  simp [State.settled, this]

theorem final_settled {s : State} (h : s.settled = true) : s.final s := ⟨0, endState_settled 0 h⟩

theorem final_next {s t u : State} (h : s.settled = false) (hs : step s = .next t) (ht : t.final u) : s.final u := by
  obtain ⟨n, hn⟩ := ht
  exact ⟨n + 1, by rw [endState_next n h hs, hn]⟩

end Sys2Proof.Machine
end

