-- ==== Sys2Proof/Tests/Slice0.lean ====
section
/-! SUPPORT. Tests of one step each, with the values of 95_test_vectors.md, ill-formed terms that the checks refuse,
and one witness for the hypotheses of every statement that has some. -/

namespace Sys2Proof.Tests

open Sys2Proof.Machine Sys2Proof.Claims

/-! ### States -/

/-- An idle block with KEY_MAX = 64, a key of two nonzero bytes, TIME and KEYLEN as in vector V1. -/
def block : State :=
  { State.reset with
    time := 0x616E11EA, keyLen := 20, key := [(0, 0xD3), (19, 0x4D)],
    status := { State.reset.status with done := true } }

/-- The block with the word `w` in flight. -/
def inFlight (w : Word) : State := block.accept w

/-- The block with FAULT latched. -/
def faulted : State := block.failed .clock

/-- A state with the coming moves `es`. -/
def moves (s : State) (es : List Event) : State := { s with schedule := es }

/-- A state whose next clock draw is `(valid, seconds)`. -/
def clock (s : State) (valid : Bool) (seconds : BitVec 64) : State :=
  { s with draws := [{ valid := valid, seconds := seconds }] }

/-- A value of the next state, where there is one. -/
def after {α : Type} (o : Host.Outcome State Fault Refusal) (f : State → α) : Option α :=
  match o with
  | .next t => some (f t)
  | .fault _ => none
  | .refused _ => none

/-- A value of the state that a clock fault carries, where there is one. -/
def atFault {α : Type} (o : Host.Outcome State Fault Refusal) (f : State → α) : Option α :=
  match o with
  | .fault (.clockError t) => some (f t)
  | _ => none

/-- STATUS as it is read. -/
def statusOf (s : State) : Word := s.status.toWord

/-- The DIGEST of vector V3 (and TR6). -/
def rfcDigest : Digest :=
  #v[0x1F, 0x86, 0x98, 0x69, 0x0E, 0x02, 0xCA, 0x16, 0x61, 0x85, 0x50, 0xEF, 0x7F, 0x19, 0xDA, 0x8E, 0x94, 0x5B, 0x55,
     0x5A]

/-- The DIGEST of vector TR2. -/
def edgeDigest : Digest :=
  #v[0, 0, 0, 0, 0, 0, 0, 0, 0, 0, 0, 0, 0, 0, 0, 0x80, 0, 0, 0x01, 0x0F]

/-- The key of vector V1. -/
def knownKey : List Byte :=
  [0xD3, 0x4D, 0x34, 0xD3, 0x4D, 0x34, 0xD3, 0x4D, 0x34, 0xD3, 0x4D, 0x34, 0xD3, 0x4D, 0x34, 0xD3, 0x4D, 0x34, 0xD3,
   0x4D]

/-! ### Ill-formed terms -/

/-- KEY_MAX below 20, above 1024, and not a multiple of 4 (00_scope.md R6). -/
theorem test_config_refused :
    Config.wf { keyMax := 16 } = false ∧ Config.wf { keyMax := 1028 } = false ∧
    Config.wf { keyMax := 22 } = false ∧ Config.wf { keyMax := 20 } = true ∧
    Config.wf { keyMax := 1024 } = true := by decide

/-- X10 to X12: a misaligned offset, and a width of 2. -/
theorem test_access_refused :
    accessWf 0x006 4 = false ∧ accessWf 0x401 4 = false ∧ accessWf 0x008 2 = false ∧ accessWf 0xFFC 4 = true := by
  decide

/-- A key of 65 bytes does not fit KEY_MAX = 64. -/
theorem test_key_refused :
    keyWf { keyMax := 64 } (List.replicate 65 0xAB) = false ∧
    keyWf { keyMax := 64 } (List.replicate 64 0xAB) = true := by decide

/-- A list that names a zero byte, or whose indices do not rise, is not canonical. -/
theorem test_memory_refused :
    Memory.wf [(3, 0)] = false ∧ Memory.wf [(3, 1), (3, 2)] = false ∧ Memory.wf [(4, 1), (3, 2)] = false := by decide

/-- No command is ill-formed, for none has an operand field (30_encoding.md R72); a CMD word can be, and is refused. -/
theorem test_words_refused :
    decode 0x00000008 = .error .reservedOpcode ∧ decode 0x000000FF = .error .reservedOpcode ∧
    decode 0x00000105 = .error .reservedBits ∧ decode 0x80000000 = .error .reservedBits := by decide

/-! ### Decoding: the words of 30_encoding.md R73 -/

/-- 40_timestep.md's family: OP 0x01 and 0x07, RSVD 0. -/
theorem test_decode_timestep :
    decode 0b00000000000000000000000000000001 = .ok .step ∧
    decode 0b00000000000000000000000000000111 = .ok .readClock := by decide

/-- 41_keyed_hash.md's family: OP 0x02 and 0x03, RSVD 0. -/
theorem test_decode_keyed_hash :
    decode 0b00000000000000000000000000000010 = .ok .hmac ∧
    decode 0b00000000000000000000000000000011 = .ok .trunc := by decide

/-- 42_encoder.md's family: OP 0x04, RSVD 0. -/
theorem test_decode_encoder : decode 0b00000000000000000000000000000100 = .ok .encode := by decide

/-- 43_orchestration.md's family: OP 0x00, 0x05 and 0x06, RSVD 0. -/
theorem test_decode_entry_points :
    decode 0b00000000000000000000000000000000 = .ok .nop ∧
    decode 0b00000000000000000000000000000101 = .ok .genTime ∧
    decode 0b00000000000000000000000000000110 = .ok .genNow := by decide

/-- The opcode table's numbering of the bits: one word, eight opcode bits. -/
theorem test_table_word :
    decodeTableWord 32 5 = some .genTime ∧ decodeTableWord 32 0x105 = none ∧ decodeTableWord 8 7 = some .readClock := by
  decide

/-- The first command after reset runs. -/
theorem test_fetch_runs :
    after (step (State.reset.withFetchWord 32 1)) (fun t => (statusOf t, t.seq)) = some (0x00000002, .idle) := by decide

/-! ### The commands -/

/-- G12: NOP. -/
theorem test_nop : after (exec .nop (inFlight 0)) (fun t => (statusOf t, t.time)) = some (0x00000002, 0x616E11EA) := by
  decide

/-- T6 and T7: the boundary of a time step. -/
theorem test_step_boundary :
    after (exec .step { block with time := 1634603489 }) State.step = some 54486782 ∧
    after (exec .step { block with time := 1634603490 }) State.step = some 54486783 := by decide

/-- T11 and T12: TIME has no sign. -/
theorem test_step_unsigned :
    after (exec .step { block with time := 0x80000000 }) State.step = some 0x04444444 ∧
    after (exec .step { block with time := 0xFFFFFFFF }) State.step = some 0x08888888 := by decide

/-- T14: the clock wraps mod 2^32. -/
theorem test_readClock_wraps :
    after (exec .readClock (clock (inFlight 7) true (2 ^ 32 + 1634603498))) (fun t => (t.time, statusOf t))
      = some (0x616E11EA, 0x00000002) := by decide

/-- T17: an invalid sample leaves TIME and latches FAULT. -/
theorem test_readClock_invalid :
    atFault (exec .readClock (clock (inFlight 7) false 5)) (fun t => (t.time, statusOf t, t.seq))
      = some (0x616E11EA, 0x00000316, .idle) := by decide

/-- V1: the counter message of STEP = 0x033F66FF. -/
theorem test_hmac_message : counterMessage 0x033F66FF = #v[0x00, 0x00, 0x00, 0x00, 0x03, 0x3F, 0x66, 0xFF] := by decide

/-- H14: KEYLEN = KEY_MAX + 1 is KEY_SETUP, and DIGEST is unchanged. -/
theorem test_hmac_key_setup :
    after (exec .hmac { inFlight 2 with keyLen := 65, digest := rfcDigest }) (fun t => (statusOf t, t.digest))
      = some (0x00000206, rfcDigest) := by decide

/-- V3 and TR6: the truncation example of RFC 4226. -/
theorem test_trunc_example :
    after (exec .trunc { block with digest := rfcDigest }) (fun t => (t.offset, t.trunc)) = some (10, 0x50EF7F19) := by
  decide

/-- TR2: the last window, bytes 15 to 18, and the mask of its top bit. -/
theorem test_trunc_last_window :
    after (exec .trunc { block with digest := edgeDigest }) (fun t => (t.offset, t.trunc)) = some (15, 0x00000001) := by
  decide

/-- E11: the code WXPBQ of 0x7FFFFFFF. -/
theorem test_encode_largest :
    after (exec .encode { block with trunc := 0x7FFFFFFF }) (fun t => (t.codeIdx, t.codeLo, t.codeHi))
      = some (0x01344B17, 0x42505857, 0x51) := by decide

/-- E8 and E9: the code wraps at 26^5. -/
theorem test_encode_wraps :
    after (exec .encode { block with trunc := 11881375 }) (fun t => (t.codeLo, t.codeHi)) = some (0x59595959, 0x59) ∧
    after (exec .encode { block with trunc := 11881376 }) (fun t => (t.codeLo, t.codeHi)) = some (0x32323232, 0x32) := by
  decide

/-- G1, the part without the hash: STEP, and STATUS. -/
theorem test_genTime_step :
    after (exec .genTime (inFlight 5)) (fun t => (t.step, statusOf t)) = some (0x033F66FF, 0x00000002) := by decide

/-- G11: nothing is committed. -/
theorem test_genTime_key_setup :
    after (exec .genTime { inFlight 5 with keyLen := 65 }) (fun t => (t.step, t.codeLo, statusOf t))
      = some (0, 0, 0x00000206) := by decide

/-- G8, the part without the hash: TIME wraps, and STEP. -/
theorem test_genNow_wraps :
    after (exec .genNow (clock { inFlight 6 with time := 0 } true (2 ^ 32 + 1634603498))) (fun t => (t.time, t.step))
      = some (0x616E11EA, 0x033F66FF) := by decide

/-- G10: CLOCK comes before KEY_SETUP. -/
theorem test_genNow_invalid :
    atFault (exec .genNow (clock { inFlight 6 with keyLen := 65 } false 0)) (fun t => (t.time, statusOf t))
      = some (0x616E11EA, 0x00000316) := by decide

/-! ### The window -/

/-- X4: a write of TIME in flight is dropped. -/
theorem test_write_in_flight :
    after (step (moves (inFlight 5) [.write 0x008 4 0])) (fun t => (t.time, statusOf t))
      = some (0x616E11EA, 0x00000009) := by decide

/-- X8: a command while FAULT = 1 is dropped. -/
theorem test_cmd_while_fault :
    after (step (moves faulted [.write 0x000 4 0])) (fun t => (statusOf t, t.seq)) = some (0x0000031E, .idle) := by
  decide

/-- X6 and X7: only IGN is writable in STATUS, by a 1. -/
theorem test_status_write :
    after (step (moves block.ignoreWrite [.write 0x004 4 0x00000008])) statusOf = some 0x00000002 ∧
    after (step (moves (inFlight 5) [.write 0x004 4 0xFFFFFFFF])) statusOf = some 0x00000001 := by decide

/-- X10 and X11: bus errors. -/
theorem test_bus_error :
    step (moves block [.read 0x006 4]) = .fault (.busError 0x006 4) ∧
    step (moves block [.write 0x401 4 7]) = .fault (.busError 0x401 4) := ⟨rfl, rfl⟩

/-- V1: KEY word 1 is bytes 4 to 7, byte 4 in the lowest lane; X13: it reads 0. -/
theorem test_key_word :
    after (step (moves block [.write 0x404 4 0x4DD3344D])) (fun t => (t.key, t.readReg (regAt t.cfg 0x404)))
      = some ([(0, 0xD3), (4, 0x4D), (5, 0x34), (6, 0xD3), (7, 0x4D), (19, 0x4D)], 0) := by decide

/-- X15 and X16: a read-only register, and an unimplemented key word. -/
theorem test_ignored_writes :
    after (step (moves block [.write 0x020 4 5])) id = some block ∧
    after (step (moves block [.write 0x440 4 5])) id = some block := by decide

/-- E14: bit 31 of TRUNC is hard-wired 0. -/
theorem test_trunc_write :
    after (step (moves block [.write 0x014 4 0xFFFFFFFF])) (fun t => t.readReg (regAt t.cfg 0x014))
      = some 0x7FFFFFFF := by decide

/-- P5: the word DIGEST0 of V3, written and read back. -/
theorem test_digest_word :
    after (step (moves block [.write 0x040 4 0x6998861F]))
      (fun t => (t.digest[0], t.digest[3], t.readReg (regAt t.cfg 0x040))) = some (0x1F, 0x69, 0x6998861F) := by decide

/-- X17: reset in flight. -/
theorem test_reset_in_flight :
    after (step (moves (inFlight 5) [.reset])) (fun t => (statusOf t, t.time, t.seq)) = some (0, 0, .idle) := by decide

/-- P1: the bus transactions of `key` and of `gen_time`. -/
theorem test_script_events :
    (ScriptLine.key knownKey).events =
      [.write 0x00C 4 0x00000014, .write 0x400 4 0xD3344DD3, .write 0x404 4 0x4DD3344D, .write 0x408 4 0x344DD334,
       .write 0x40C 4 0xD3344DD3, .write 0x410 4 0x4DD3344D] ∧
    (ScriptLine.genTime 1634603498 1).events =
      [.write 0x008 4 0x616E11EA, .write 0x000 4 0x00000005, .read 0x004 4, .sequencer, .read 0x004 4] := by decide

/-- R249: a run is over while a reset, or a turn of an idle sequencer, is still to come, and not while a command is in
flight or FAULT = 1. -/
theorem test_end_state :
    (moves block [.reset]).endState 3 = some (moves block [.reset]) ∧
    (moves block [.sequencer]).endState 3 = some (moves block [.sequencer]) ∧
    ((inFlight 1).endState 3).map statusOf = some 0x00000002 ∧ faulted.endState 3 = none := by decide

/-- R249: a run that met a bus error or a clock error has no end state. -/
theorem test_no_end_state :
    (moves block [.read 0x006 4, .read 0x004 4]).endState 3 = none ∧
    (moves (clock (inFlight 7) false 0) [.sequencer, .reset, .read 0x004 4]).endState 4 = none := by decide

/-! ### Witnesses: the invariant -/

/-- The idle block meets the invariant. -/
theorem block_inv : Inv block where
  cfg := by decide
  status := by constructor <;> decide
  code := .inl (by decide)
  key := ⟨by decide, fun i (h : 64 ≤ i) => by
    simp only [block, Memory.read]
    rw [if_neg (by omega), if_neg (by omega)]⟩

/-- It does with other moves to come. -/
theorem moves_inv (es : List Event) : Inv (moves block es) :=
  ⟨block_inv.cfg, block_inv.status, block_inv.code, block_inv.key⟩

/-- A block with a clock command in flight meets it. -/
theorem inFlight_inv : Inv (clock (inFlight 7) false 0) where
  cfg := block_inv.cfg
  status := by constructor <;> decide
  code := block_inv.code
  key := block_inv.key

/-- A block with FAULT latched meets it. -/
theorem faulted_inv (es : List Event) : Inv (moves faulted es) where
  cfg := block_inv.cfg
  status := show StatusInv faulted.status faulted.seq by constructor <;> decide
  code := block_inv.code
  key := block_inv.key

/-! ### Witnesses: encoding and acceptance -/

theorem witness_DecodeIffEncoded : Instr.genNow.wf = true ∧ Instr.nop.wf = true := by decide

theorem witness_StepRunsDecodedCommand :
    ((moves (inFlight 1) [.sequencer, .reset]).seq = .inflight 1 ∧ decode 1 = .ok .step ∧
      sequencerNext (moves (inFlight 1) [.sequencer, .reset]) [.reset]) ∧
    ((inFlight 4).seq = .inflight 4 ∧ decode 4 = .ok .encode ∧ sequencerNext (inFlight 4) []) :=
  ⟨⟨rfl, by decide, .inl rfl⟩, rfl, by decide, .inr ⟨rfl, rfl⟩⟩

/-- A turn that is listed, and one that is taken because no move is left. -/
theorem witness_IdleBlockHoldsRegisters :
    ((moves block [.sequencer, .reset]).seq = .idle ∧ sequencerNext (moves block [.sequencer, .reset]) [.reset]) ∧
    (block.seq = .idle ∧ sequencerNext block []) := ⟨⟨rfl, .inl rfl⟩, rfl, .inr ⟨rfl, rfl⟩⟩

/-- Accepted, dropped in flight, and dropped with FAULT = 1. -/
theorem witness_CmdWriteAcceptance :
    ((moves block [.write 0x000 4 5]).seq = .idle ∧ (moves block [.write 0x000 4 5]).status.fault = false) ∧
    (moves (inFlight 5) [.write 0x000 4 5]).seq ≠ .idle ∧
    (moves faulted [.write 0x000 4 5]).status.fault = true ∧
    (moves faulted [.write 0x000 4 5]).schedule = .write 0x000 4 5 :: [] := by decide

/-- The smallest and largest reserved opcode, and a nonzero RSVD with a defined and with a reserved OP. -/
theorem witness_BadCommandWordCompletes :
    (∀ w ∈ [0x00000008#32, 0x000000FF#32, 0x00000105#32, 0xFFFFFFFF#32],
      w.toNat / 256 ≠ 0 ∨ 8 ≤ w.toNat % 256) ∧
    (moves block [.write 0x000 4 0x00000105, .sequencer]).seq = .idle ∧
    (moves block [.write 0x000 4 0x00000105, .sequencer]).status.fault = false ∧
    (moves block [.write 0x000 4 0x00000105, .sequencer]).schedule = .write 0x000 4 0x00000105 :: .sequencer :: [] :=
  ⟨by simp, rfl, rfl, rfl⟩

/-! ### Witnesses: the commands -/

theorem witness_ReadClockResult :
    (clockNow (clock block true 0)).valid = true ∧ (clockNow (clock block false 0)).valid = false := by decide

/-- KEYLEN at KEY_MAX, and one above it. -/
theorem witness_HmacResult :
    ({ block with keyLen := 64 } : State).keyLen.toNat ≤ block.cfg.keyMax ∧
    block.cfg.keyMax < ({ block with keyLen := 65 } : State).keyLen.toNat := by decide

/-- KEYLEN at 0, and at its largest value. -/
theorem witness_GenTimeResult :
    ({ block with keyLen := 0 } : State).keyLen.toNat ≤ block.cfg.keyMax ∧
    block.cfg.keyMax < ({ block with keyLen := 0xFFFFFFFF } : State).keyLen.toNat := by decide

theorem witness_GenNowResult :
    ((clockNow (clock block true 9)).valid = true ∧ (clock block true 9).keyLen.toNat ≤ block.cfg.keyMax) ∧
    ((clockNow (clock { block with keyLen := 65 } true 9)).valid = true ∧
      block.cfg.keyMax < (clock { block with keyLen := 65 } true 9).keyLen.toNat) ∧
    (clockNow (clock block false 9)).valid = false := by decide

theorem witness_CommandFrame :
    (∃ t, exec .genTime (inFlight 5) = .next t) ∧ (∃ t, exec .step (inFlight 1) = .next t) ∧
    (∃ t, exec .readClock (clock (inFlight 7) true 1) = .next t) := ⟨⟨_, rfl⟩, ⟨_, rfl⟩, ⟨_, rfl⟩⟩

theorem witness_FailedCommandCommitsNothing :
    ∃ t, exec .genTime { inFlight 5 with keyLen := 65 } = .next t ∧ t.status.err = true := ⟨_, rfl, rfl⟩

theorem witness_KeySetupError :
    block.cfg.keyMax < ({ block with keyLen := 65 } : State).keyLen.toNat ∧
    (clockNow (clock { block with keyLen := 65 } true 0)).valid = true := by decide

theorem witness_ClockErrorFaults : (clockNow (clock (inFlight 6) false 0)).valid = false := by decide

theorem witness_ErrorPriority :
    ((inFlight 0x00000105).seq = .inflight 0x00000105 ∧ (0x00000105 : Word).toNat / 256 ≠ 0 ∧
      sequencerNext (inFlight 0x00000105) []) ∧
    ((clockNow (clock { block with keyLen := 65 } false 0)).valid = false ∧
      block.cfg.keyMax < (clock { block with keyLen := 65 } false 0).keyLen.toNat) ∧
    ((clockNow (clock { block with keyLen := 65 } true 0)).valid = true ∧
      block.cfg.keyMax < (clock { block with keyLen := 65 } true 0).keyLen.toNat) :=
  ⟨⟨rfl, by decide, .inr ⟨rfl, rfl⟩⟩, by decide, by decide⟩

/-- One for each clause: a step that is no reset, the clock fault, reset, a CMD write and another step with FAULT = 1. -/
theorem witness_FaultLatch :
    (∃ t, step (moves block [.write 0x008 4 1]) = .next t ∧
      (moves block [.write 0x008 4 1]).schedule.head? ≠ some .reset) ∧
    (∃ t, step (clock (inFlight 7) false 0) = .fault (.clockError t)) ∧
    (∃ t, step (moves faulted [.reset]) = .next t ∧ (moves faulted [.reset]).schedule.head? = some .reset) ∧
    (moves faulted [.write 0x000 4 3]).status.fault = true ∧
    (Inv (moves faulted [.read 0x004 4]) ∧
      ∃ t, step (moves faulted [.read 0x004 4]) = .next t ∧ t.status.fault = true) :=
  ⟨⟨_, rfl, by decide⟩, ⟨_, rfl⟩, ⟨_, rfl, rfl⟩, rfl, faulted_inv _, _, rfl, rfl⟩

theorem witness_HardwareAfterClockFault :
    ∃ s : State, s.seq = .inflight 0x00000007 ∧ (clockNow s).valid = false ∧
      s.schedule = [.sequencer, .write 0x000 4 0x00000000, .read 0x004 4, .reset, .read 0x004 4] :=
  ⟨moves (clock (inFlight 7) false 0) [.sequencer, .write 0x000 4 0x00000000, .read 0x004 4, .reset, .read 0x004 4],
    rfl, rfl, rfl⟩

/-- A bus error, and a clock error. -/
theorem witness_OnlySpecFaults :
    (∃ f, step (moves block [.read 0x006 4]) = .fault f) ∧ (∃ f, step (clock (inFlight 6) false 0) = .fault f) :=
  ⟨⟨_, rfl⟩, _, rfl⟩

/-! ### Witnesses: the window -/

/-- A width of 2 at an aligned offset, and a width of 4 at misaligned ones. -/
theorem witness_BusErrorChangesNothing :
    ((2 ≠ 4 ∨ (0x008 : Offset).toNat % 4 ≠ 0) ∧ (4 ≠ 4 ∨ (0x006 : Offset).toNat % 4 ≠ 0) ∧
      (4 ≠ 4 ∨ (0xFFF : Offset).toNat % 4 ≠ 0)) ∧
    (moves block [.read 0x006 4]).schedule = .read 0x006 4 :: [] ∧
    (moves block [.write 0x008 2 7]).schedule = .write 0x008 2 7 :: [] := by decide

/-- Each register, and the boundaries of the digest and key windows; the word read is that of the spec. -/
theorem witness_WindowReads :
    (∀ off ∈ [0x000#12, 0x004#12, 0x024#12, 0x028#12, 0x03C#12, 0x040#12, 0x050#12, 0x054#12, 0x400#12, 0xFFC#12],
      off.toNat % 4 = 0) ∧
    windowNat block 0x004 = 2 ∧ windowNat block 0x008 = 0x616E11EA ∧ windowNat block 0x03C = 0 ∧
    windowNat { block with digest := rfcDigest } 0x040 = 0x6998861F ∧
    windowNat { block with digest := rfcDigest } 0x050 = 0x5A555B94 ∧
    windowNat { block with digest := rfcDigest } 0x054 = 0 ∧ windowNat block 0x400 = 0 ∧ windowNat block 0xFFC = 0 ∧
    (moves (inFlight 5) [.read 0x03C 4]).schedule = .read 0x03C 4 :: [] :=
  ⟨by simp, by decide⟩

/-- One offset for each clause, at the boundaries of its range, and none of them under two clauses. -/
theorem witness_WindowWrites :
    (block.cfg.wf = true ∧ block.key.wf = true) ∧
    (∀ n ∈ [0x008, 0x00C, 0x010, 0x014, 0x040, 0x050, 0x400, 0x43C], inputOffset block.cfg n ∧ n % 4 = 0) ∧
    (∀ n ∈ [0x000, 0x004, 0x018, 0x01C, 0x020, 0x024, 0x028, 0x03C, 0x054, 0x3FC, 0x440, 0x7FC, 0x800, 0xFFC],
      ¬ inputOffset block.cfg n) ∧
    (moves block [.write 0x43C 4 7]).schedule = .write 0x43C 4 7 :: [] := by decide

/-- The boundaries of the four reserved ranges. -/
theorem witness_ReservedOffsets :
    (∀ n ∈ [0x028, 0x03C, 0x054, 0x3FC, 0x440, 0x7FC, 0x800, 0xFFC], reservedOffset block.cfg n ∧ n % 4 = 0) ∧
    (∀ n ∈ [0x024, 0x040, 0x050, 0x400, 0x43C], ¬ reservedOffset block.cfg n) ∧ block.cfg.wf = true ∧
    (moves block [.read 0x440 4]).schedule = .read 0x440 4 :: [] ∧
    (moves block [.write 0x7FC 4 7]).schedule = .write 0x7FC 4 7 :: [] := by decide

/-- One offset for each clause, no two clauses over one offset. -/
theorem witness_WrittenWordReadBack :
    (moves block [.write 0x050 4 5, .read 0x050 4]).seq = .idle ∧
    (moves block [.write 0x050 4 5, .read 0x050 4]).schedule = .write 0x050 4 5 :: .read 0x050 4 :: [] ∧
    (∀ off ∈ [0x008#12, 0x00C#12, 0x010#12, 0x040#12, 0x050#12, 0x014#12, 0x400#12, 0x7FC#12], off.toNat % 4 = 0) ∧
    (0x040 ≤ (0x040 : Offset).toNat ∧ (0x050 : Offset).toNat ≤ 0x050) ∧ (0x014 : Offset).toNat = 0x014 ∧
    (0x400 ≤ (0x400 : Offset).toNat ∧ (0x7FC : Offset).toNat ≤ 0x7FC) := ⟨rfl, rfl, by simp, by decide⟩

theorem witness_WriteInFlightDropped :
    (inFlight 5).cfg.wf = true ∧ (inFlight 5).seq ≠ .idle ∧
    (∀ n ∈ [0x008, 0x014, 0x040, 0x050, 0x400, 0x43C], inputOffset (inFlight 5).cfg n) ∧
    (moves (inFlight 5) [.write 0x43C 4 7]).schedule = .write 0x43C 4 7 :: [] := by decide

theorem witness_InputsStableInFlight :
    (∀ e ∈ ([.read 0x004 4, .write 0x008 4 0] : List Event), goodAccess e) ∧
    (moves (inFlight 5) [.read 0x004 4, .write 0x008 4 0, .sequencer]).seq = .inflight 5 ∧
    (moves (inFlight 5) [.read 0x004 4, .write 0x008 4 0, .sequencer]).schedule =
      [.read 0x004 4, .write 0x008 4 0] ++ [.sequencer] := by
  refine ⟨?_, rfl, rfl⟩
  simp only [List.mem_cons, List.not_mem_nil, or_false]
  rintro e (rfl | rfl)
  · exact .inl ⟨_, rfl, by decide⟩
  · exact .inr ⟨_, _, rfl, by decide⟩

theorem witness_CommandInFlightCompletes :
    (∀ e ∈ (moves (inFlight 6) [.read 0x7FC 4]).schedule, goodAccess e) ∧
    (moves (inFlight 6) [.read 0x7FC 4]).seq = .inflight 6 := by
  refine ⟨?_, rfl⟩
  simp only [moves, List.mem_cons, List.not_mem_nil, or_false]
  rintro e rfl
  exact .inl ⟨_, rfl, by decide⟩

/-- An idle write of an input register, and a write in flight. -/
theorem witness_AccessesLeaveResults :
    (∃ t, step (moves block [.write 0x008 4 5]) = .next t) ∧
    (∃ t, step (moves (inFlight 5) [.write 0x008 4 5]) = .next t) ∧ (inFlight 5).seq ≠ .idle ∧
    (∃ t, step (moves (inFlight 5) [.read 0x020 4]) = .next t) ∧
    (moves (inFlight 5) [.read 0x020 4]).schedule = .read 0x020 4 :: [] :=
  ⟨⟨_, rfl⟩, ⟨_, rfl⟩, by decide, ⟨_, rfl⟩, rfl⟩

/-- A run that ends in a next state, and one that ends in a fault, from two blocks whose keys differ. -/
theorem witness_KeyIsUnreadable :
    (2 ≤ (moves block [.read 0x400 4, .write 0x404 4 1]).schedule.length ∧
      (∀ e ∈ (moves block [.read 0x400 4, .write 0x404 4 1]).schedule, e ≠ .sequencer) ∧
      ∃ t, run 2 (moves block [.read 0x400 4, .write 0x404 4 1]) = .next t) ∧
    ((∀ e ∈ (moves block [.read 0x401 4]).schedule, e ≠ .sequencer) ∧
      ∃ f, run 1 (moves block [.read 0x401 4]) = .fault f) ∧ block.key ≠ [] :=
  ⟨⟨by decide, by decide, _, rfl⟩, ⟨by decide, _, rfl⟩, by decide⟩

/-! ### Witnesses: reset and invariants -/

theorem witness_ResetState : State.reset = State.resetWith { keyMax := 64 } := rfl

theorem witness_ResetFromAnyState :
    (moves (inFlight 5) [.reset, .read 0x004 4]).schedule = .reset :: [.read 0x004 4] := rfl

theorem witness_InvariantAtReset : Config.wf { keyMax := 20 } = true ∧ Config.wf { keyMax := 1024 } = true := by decide

theorem witness_StepKeepsInvariant :
    Inv (moves block [.write 0x000 4 5]) ∧ ∃ t, step (moves block [.write 0x000 4 5]) = .next t :=
  ⟨moves_inv _, _, rfl⟩

theorem witness_ClockFaultKeepsInvariant :
    Inv (clock (inFlight 7) false 0) ∧ ∃ t, step (clock (inFlight 7) false 0) = .fault (.clockError t) :=
  ⟨inFlight_inv, _, rfl⟩

theorem witness_ParameterNeverChanges :
    (∃ t, step (moves block [.reset]) = .next t) ∧
    (∃ t, step (clock (inFlight 7) false 0) = .fault (.clockError t)) := ⟨⟨_, rfl⟩, _, rfl⟩

/-! ### Witnesses: the composition and the script lines -/

/-- E8: the largest code is that of a value below 26^5. -/
theorem witness_EncoderProperties :
    (11881375 : BitVec 31).toNat < 26 ^ 5 ∧ codeDigits 11881375 = #v[25, 25, 25, 25, 25] := by decide

/-- KEYLEN at KEY_MAX, and one above it. -/
theorem witness_CompositionOfSubBlocks :
    (block.seq = .idle ∧ block.status.fault = false) ∧
    ({ block with keyLen := 64 } : State).keyLen.toNat ≤ block.cfg.keyMax ∧
    block.cfg.keyMax < ({ block with keyLen := 65 } : State).keyLen.toNat := by decide

/-- Two blocks that differ in TIME within one time step, two on the two sides of a boundary, and a committed code. -/
theorem witness_TotpProperties :
    ((block.time.toNat / 30 = ({ block with time := 1634603519 } : State).time.toNat / 30 ∧
        block.keyLen.toNat ≤ block.cfg.keyMax) ∧
      (∃ t, exec .genTime block = .next t) ∧ ∃ t, exec .genTime { block with time := 1634603519 } = .next t) ∧
    (({ block with time := 1634603489 } : State).time.toNat = 30 * 54486783 - 1 ∧
      ({ block with time := 1634603490 } : State).time.toNat = 30 * 54486783 ∧
      (∃ t, exec .genTime { block with time := 1634603489 } = .next t) ∧
      ∃ t, exec .genTime { block with time := 1634603490 } = .next t) ∧
    (∃ t, exec .genTime block = .next t ∧ t.status.err = false) :=
  ⟨⟨by decide, ⟨_, rfl⟩, _, rfl⟩, ⟨by decide, by decide, ⟨_, rfl⟩, _, rfl⟩, _, rfl, rfl⟩

/-- For no poll that sees BUSY = 1, and for one; STATUS is then read as R78 shows. -/
theorem witness_RunLineCompletes :
    (block.seq = .idle ∧ block.status.fault = false) ∧
    (∀ p ∈ [0, 1], (moves block (ScriptLine.run .genTime p).events).schedule =
      (ScriptLine.run .genTime p).events ++ []) ∧
    ∃ t, exec .genTime
      { block with
        seq := .inflight (encode .genTime)
        status := { busy := true, done := false, err := false, ign := false, fault := false, errCode := 0 }
        schedule := [.read 0x004 4]
        reads := [1] } = .next t :=
  ⟨by decide, by decide, _, rfl⟩

/-- One run that ends at once with a reset still to come, one that ends after a step, and one that faults. -/
theorem witness_RunEndsAtFirstSettledState :
    runOver (moves block [.reset]) ∧ (moves block [.reset]).final (moves block [.reset]) ∧
    (∃ t, (moves block [.read 0x004 4]).final t) ∧ ¬ runOver (moves block [.read 0x004 4]) ∧
    (∃ f, run 1 (clock (inFlight 7) false 0) = .fault f) ∧ ∃ f, run 2 (moves block [.reset, .read 0x006 4]) = .fault f :=
  ⟨⟨by simp [moves], rfl, rfl⟩, final_settled (by decide),
    ⟨_, final_next (by decide) rfl (final_settled (by decide))⟩, by simp [runOver, moves],
    ⟨_, rfl⟩, _, rfl⟩

/-- The key of V1, the empty key, the longest one, and one whose last word has three bytes past its end. -/
theorem witness_KeyLineLoadsKey :
    Inv (moves block (ScriptLine.key knownKey).events) ∧ block.seq = .idle ∧ keyWf block.cfg knownKey = true ∧
    keyWf block.cfg [] = true ∧ keyWf block.cfg (List.replicate 64 0xAB) = true ∧
    keyWf block.cfg (List.replicate 21 0xAB) = true ∧ 23 < ((List.replicate 21 0xAB).length + 3) / 4 * 4 :=
  ⟨moves_inv _, rfl, by decide, by decide, by decide, by decide, by decide⟩

theorem witness_BootSequenceGivesCode :
    Inv (moves block (scriptEvents [.key knownKey, .genTime 1634603498 1, .readcode])) ∧ block.seq = .idle ∧
    block.status.fault = false ∧ keyWf block.cfg knownKey = true :=
  ⟨moves_inv _, rfl, rfl, by decide⟩

end Sys2Proof.Tests
end

section
/-! PROOFS. The state after reset (10_state.md R36): what a read of each register returns, and the fields. -/

namespace Sys2Proof.Machine

/-- With every STATUS field 0, STATUS reads 0 (10_state.md R23). -/
@[simp] theorem Status.toWord_cleared : Status.cleared.toWord = 0 := by decide

@[simp] theorem ofLanes_zero : ofLanes 0 0 0 0 = 0 := by decide

/-- Each word of the zeroed digest is 0 (20_memory.md R54). -/
@[simp] theorem digestWord_replicate_zero (k : Fin 5) : digestWord (Vector.replicate 20 0) k = 0 := by
  simp only [digestWord, Vector.getElem_replicate, ofLanes_zero]

/-- After reset every register reads 0, whatever lies at the offset; KEY_MAX does not matter. -/
theorem State.readReg_resetWith (c : Config) (r : Reg) : (State.resetWith c).readReg r = 0 := by
  cases r with
  | status => exact Status.toWord_cleared
  | digest k => exact digestWord_replicate_zero k
  | cmd | time | keyLen | step | trunc | offset | codeIdx | codeLo | codeHi | key | reserved => rfl

/-- Settles O35: a read is 0 for each register by `State.readReg_resetWith`, and the fields are those R36 lists. -/
theorem resetState : Obligations.ResetState := by
  rintro c s rfl
  have hreads (off : Offset) : (State.resetWith c).readReg (regAt c off) = 0 := State.readReg_resetWith c _
  have hdigest (i : Fin 20) : (State.resetWith c).digest[i] = 0 := Vector.getElem_replicate i.isLt
  have hkey (a : Nat) : (State.resetWith c).key.read a = 0 := rfl
  exact ⟨hreads, rfl, rfl, rfl, rfl, rfl, rfl, rfl, rfl, rfl, rfl, rfl, rfl, rfl, rfl, hdigest, hkey, rfl⟩

end Sys2Proof.Machine
end

section
/-! PROOFS. The words of the window in arithmetic: STATUS and the four byte lanes of a word as sums
(10_state.md R23, 20_memory.md R54), and the bytes that a stored word leaves in DIGEST and KEY (R57). -/

namespace Sys2Proof.Machine

open Sys2Proof.Claims

/-! ### A word put together from its fields -/

/-- Bits put above a number that fits below them add their weight. -/
theorem ofNat_or_shiftLeft {n i b : Nat} (hb : b < 2 ^ i) (a : Nat) :
    BitVec.ofNat n b ||| BitVec.ofNat n a <<< i = BitVec.ofNat n (b + 2 ^ i * a) := by
  have hshift : BitVec.ofNat n a <<< i = BitVec.ofNat n (2 ^ i * a) := by
    apply BitVec.eq_of_toNat_eq
    simp [Nat.shiftLeft_eq, Nat.mul_comm]
  rw [hshift, ← BitVec.ofNat_or, Nat.or_comm, ← Nat.two_pow_add_eq_or_of_lt hb, Nat.add_comm]

theorem bitAt_eq_ofNat (b : Bool) (i : Nat) : bitAt b i = BitVec.ofNat 32 b.toNat <<< i := by
  rw [bitAt, ← BitVec.ofNat_toNat, BitVec.toNat_ofBool]

/-- The four bytes of a word, by weight (20_memory.md R54). -/
theorem ofLanes_eq_ofNat (b0 b1 b2 b3 : Byte) :
    ofLanes b0 b1 b2 b3 =
      BitVec.ofNat 32 (b0.toNat + 2 ^ 8 * b1.toNat + 2 ^ 16 * b2.toNat + 2 ^ 24 * b3.toNat) := by
  have h0 := b0.isLt
  have h1 := b1.isLt
  have h2 := b2.isLt
  simp only [ofLanes, ← BitVec.ofNat_toNat]
  rw [ofNat_or_shiftLeft h0, ofNat_or_shiftLeft (by omega), ofNat_or_shiftLeft (by omega)]

/-- STATUS reads as its fields, by weight (10_state.md R23). -/
theorem Status.toWord_eq_ofNat (st : Status) : st.toWord = BitVec.ofNat 32 (statusNat st) := by
  have h0 := st.busy.toNat_le
  have h1 := st.done.toNat_le
  have h2 := st.err.toNat_le
  have h3 := st.ign.toNat_le
  have h4 := st.fault.toNat_le
  simp only [toWord, bitAt_eq_ofNat, ← BitVec.ofNat_toNat, BitVec.shiftLeft_zero]
  rw [ofNat_or_shiftLeft (by omega), ofNat_or_shiftLeft (by omega), ofNat_or_shiftLeft (by omega),
    ofNat_or_shiftLeft (by omega), ofNat_or_shiftLeft (by omega)]
  rfl

theorem digestNat_eq {d : Digest} {i : Nat} (h : i < 20) : digestNat d i = d[i].toNat := by
  simp [digestNat, h]

/-- The word DIGESTk is the sum of its four bytes (20_memory.md R54). -/
theorem digestWord_eq_ofNat (d : Digest) (k : Fin 5) :
    digestWord d k = BitVec.ofNat 32 (digestNat d (4 * k) + 2 ^ 8 * digestNat d (4 * k + 1)
      + 2 ^ 16 * digestNat d (4 * k + 2) + 2 ^ 24 * digestNat d (4 * k + 3)) := by
  rw [digestWord, ofLanes_eq_ofNat, digestNat_eq (by omega), digestNat_eq (by omega),
    digestNat_eq (by omega), digestNat_eq (by omega)]

/-! ### A word taken apart into its lanes -/

theorem lane_eq_laneOf (w : Word) (j : Nat) : lane w j = laneOf w j := by
  rw [lane, laneOf, BitVec.extractLsb', Nat.shiftRight_eq_div_pow]

/-- Four consecutive places from 4k on, each with its own value, are the places of quotient k, by their remainder. -/
theorem ite_lanes {α : Type} (f : Nat → α) (x : α) (i k : Nat) :
    (if i = 4 * k + 3 then f 3 else if i = 4 * k + 2 then f 2 else if i = 4 * k + 1 then f 1
      else if i = 4 * k then f 0 else x) = if i / 4 = k then f (i % 4) else x := by
  by_cases hk : i / 4 = k
  · obtain ⟨j, rfl⟩ := Nat.exists_eq_add_of_le (show 4 * k ≤ i by omega)
    have hj : j < 4 := by omega
    rw [if_pos hk]
    interval_cases j <;> simp
  · rw [if_neg hk, if_neg (by omega), if_neg (by omega), if_neg (by omega), if_neg (by omega)]

/-- A word stored to DIGESTk sets its four bytes in lane order and no other (20_memory.md R54, R57). -/
theorem getElem_digestSetWord (d : Digest) (k : Fin 5) (w : Word) {i : Nat} (hi : i < 20) :
    (digestSetWord d k w)[i] = if i / 4 = k then laneOf w (i % 4) else d[i] := by
  simp only [digestSetWord, Vector.getElem_set, eq_comm (b := i), lane_eq_laneOf]
  exact ite_lanes (laneOf w) d[i] i k

/-- A word stored to KEYk sets its four bytes in lane order and no other (20_memory.md R54, R57). -/
theorem Memory.read_writeWord_lanes {m : Memory} (hm : m.wf = true) (k : Nat) (w : Word) (i : Nat) :
    (m.writeWord k w).read i = if i / 4 = k then laneOf w (i % 4) else m.read i := by
  simp only [read_writeWord hm, lane_eq_laneOf]
  exact ite_lanes (laneOf w) (m.read i) i k

end Sys2Proof.Machine
end

section
/-! PROOFS. The register window (20_memory.md): what lies at each aligned offset (10_state.md R21), what a read of it
returns (R56), what a write to it does (R57), and the bus error (R53). -/

namespace Sys2Proof.Machine

open Sys2Proof.Claims

/-! ### The map of the window -/

/-- Register `r` lies at the aligned offset `n` of a block with parameter `c`: the map of 10_state.md R21, read off
row by row. -/
inductive LiesAt (c : Config) : Nat → Reg → Prop where
  | cmd : LiesAt c 0x000 .cmd
  | status : LiesAt c 0x004 .status
  | time : LiesAt c 0x008 .time
  | keyLen : LiesAt c 0x00C .keyLen
  | step : LiesAt c 0x010 .step
  | trunc : LiesAt c 0x014 .trunc
  | offset : LiesAt c 0x018 .offset
  | codeIdx : LiesAt c 0x01C .codeIdx
  | codeLo : LiesAt c 0x020 .codeLo
  | codeHi : LiesAt c 0x024 .codeHi
  | digest (k : Fin 5) : LiesAt c (0x040 + 4 * k) (.digest k)
  | key (k : Nat) (hwin : k < 256) (himp : k < c.keyMax / 4) : LiesAt c (0x400 + 4 * k) (.key k)
  | reserved (n : Nat) (hscalar : 0x024 < n) (hdigest : ¬(0x040 ≤ n ∧ n ≤ 0x050))
      (hkey : ¬(0x400 ≤ n ∧ n < 0x800 ∧ (n - 0x400) / 4 < c.keyMax / 4)) : LiesAt c n .reserved

theorem liesAt_scalarAt (c : Config) {j : Nat} (h : j < 16) : LiesAt c (4 * j) (scalarAt j) := by
  match j with
  | 0 => exact .cmd
  | 1 => exact .status
  | 2 => exact .time
  | 3 => exact .keyLen
  | 4 => exact .step
  | 5 => exact .trunc
  | 6 => exact .offset
  | 7 => exact .codeIdx
  | 8 => exact .codeLo
  | 9 => exact .codeHi
  | j + 10 => exact .reserved _ (by omega) (by omega) (by omega)

/-- The model's map names, at every aligned offset, the register of R21's row. -/
theorem liesAt_regAtNat (c : Config) {n : Nat} (h : n % 4 = 0) : LiesAt c n (regAtNat c n) := by
  obtain ⟨j, rfl⟩ := Nat.dvd_of_mod_eq_zero h
  unfold regAtNat
  split_ifs with hscalar hdigest hkey
  · rw [Nat.mul_div_cancel_left j (by omega)]
    exact liesAt_scalarAt c (by omega)
  · obtain ⟨k, rfl⟩ := Nat.exists_eq_add_of_le (show 16 ≤ j by omega)
    have hk : (4 * (16 + k) - 0x040) / 4 = k := by omega
    rw [hk, Nat.mul_add]
    have hlies := LiesAt.digest (c := c) (Fin.ofNat 5 k)
    rwa [Fin.val_ofNat, Nat.mod_eq_of_lt (by omega)] at hlies
  · obtain ⟨k, rfl⟩ := Nat.exists_eq_add_of_le (show 256 ≤ j by omega)
    have hk : (4 * (256 + k) - 0x400) / 4 = k := by omega
    rw [hk] at hkey ⊢
    rw [Nat.mul_add]
    exact .key k (by omega) hkey.2.2
  · exact .reserved _ (by omega) (by omega) hkey

theorem liesAt_regAt (c : Config) {off : Offset} (h : off.toNat % 4 = 0) : LiesAt c off.toNat (regAt c off) :=
  liesAt_regAtNat c h

theorem config_wf_iff {c : Config} : c.wf = true ↔ c.keyMax % 4 = 0 ∧ 20 ≤ c.keyMax ∧ c.keyMax ≤ 1024 := by
  simp [Config.wf, and_assoc]

/-- A reserved offset, or one of an unimplemented key word, holds no register (20_memory.md R55). -/
theorem LiesAt.eq_reserved {c : Config} {n : Nat} {r : Reg} (h : LiesAt c n r) (hc : c.wf = true)
    (hn : reservedOffset c n) : r = .reserved := by
  obtain ⟨h4, -, -⟩ := config_wf_iff.1 hc
  cases h with
  | reserved => rfl
  | cmd | status | time | keyLen | step | trunc | offset | codeIdx | codeLo | codeHi | digest | key => omega

/-! ### The host's moves -/

theorem step_read {s : State} {off : Offset} {rest : List Event} (h : off.toNat % 4 = 0)
    (hs : s.schedule = .read off 4 :: rest) :
    step s = .next { s with schedule := rest, reads := s.reads ++ [s.readReg (regAt s.cfg off)] } := by
  rw [step_cons hs]
  exact hostRead_ok h

theorem step_write {s : State} {off : Offset} {w : Word} {rest : List Event} (h : off.toNat % 4 = 0)
    (hs : s.schedule = .write off 4 w :: rest) :
    step s = .next (State.writeReg { s with schedule := rest } (regAt s.cfg off) w) := by
  rw [step_cons hs]
  exact hostWrite_ok h

theorem hardwareStep_busError {s : State} {off : Offset} {width : Nat}
    (h : step s = .fault (.busError off width)) : hardwareStep s = { s with schedule := s.schedule.tail } := by
  unfold hardwareStep
  rw [h]

/-! ### Reads -/

/-- The word DIGESTk among the numbers of the window. -/
theorem windowNat_digest (s : State) (k : Fin 5) :
    windowNat s (0x040 + 4 * k) = digestNat s.digest (4 * k) + 2 ^ 8 * digestNat s.digest (4 * k + 1)
      + 2 ^ 16 * digestNat s.digest (4 * k + 2) + 2 ^ 24 * digestNat s.digest (4 * k + 3) := by
  unfold windowNat
  iterate 9 rw [if_neg (by omega)]
  rw [if_pos (by omega), Nat.add_sub_cancel_left]

/-- Above CODE_HI the window reads 0 but in DIGEST. -/
theorem windowNat_eq_zero {s : State} {n : Nat} (hscalar : 0x024 < n) (hdigest : ¬(0x040 ≤ n ∧ n ≤ 0x050)) :
    windowNat s n = 0 := by
  unfold windowNat
  iterate 10 rw [if_neg (by omega)]

/-- What a read returns, as the number the spec gives it (20_memory.md R55, R56). -/
theorem LiesAt.readReg_eq {s : State} {n : Nat} {r : Reg} (h : LiesAt s.cfg n r) :
    s.readReg r = BitVec.ofNat 32 (windowNat s n) := by
  cases h with
  | cmd => rfl
  | status => exact s.status.toWord_eq_ofNat
  | time | keyLen | step | codeLo => simp [State.readReg, windowNat]
  | trunc | offset | codeIdx | codeHi => exact (BitVec.ofNat_toNat _ _).symm
  | digest k => rw [windowNat_digest]; exact digestWord_eq_ofNat s.digest k
  | key k => rw [windowNat_eq_zero (by omega) (by omega)]; rfl
  | reserved _ hscalar hdigest => rw [windowNat_eq_zero hscalar hdigest]; rfl

/-! ### Writes -/

theorem writeCmd_eq (s : State) (w : Word) :
    s.writeCmd w = if s.seq = .idle ∧ s.status.fault = false then s.accept w else s.ignoreWrite := by
  cases hq : s.seq with
  | inflight c => rw [writeCmd_inflight hq, if_neg (by simp)]
  | idle =>
    cases hf : s.status.fault with
    | true => rw [writeCmd_fault hq hf, if_neg (by simp)]
    | false => rw [writeCmd_accept hq hf, if_pos ⟨rfl, rfl⟩]

/-- An offset of no input register, CMD or STATUS takes no write. -/
theorem writeEffect_same {s : State} {n : Nat} (w : Word) (hn : 0x004 < n) (hi : ¬inputOffset s.cfg n) :
    writeEffect s n w s := by
  rw [writeEffect, if_neg (by omega), if_neg (by omega), if_neg hi]

/-- The write of an input register is dropped in flight, so what is left to say is what it does when idle. -/
theorem writeEffect_writeInput {s s' : State} {n : Nat} {w : Word} (hi : inputOffset s.cfg n)
    (h : s.seq = .idle → writeEffect s n w s') : writeEffect s n w (s.writeInput s') := by
  cases hq : s.seq with
  | idle => rw [writeInput_idle hq]; exact h hq
  | inflight c =>
    rw [writeInput_inflight hq, writeEffect, if_neg (by omega), if_neg (by omega), if_pos hi, if_pos (by simp [hq])]
    rfl

theorem writeEffect_digest {s : State} (hq : s.seq = .idle) (k : Fin 5) (w : Word) :
    writeEffect s (0x040 + 4 * k) w { s with digest := digestSetWord s.digest k w } := by
  have hk : (0x040 + 4 * k.val - 0x040) / 4 = k := by omega
  rw [writeEffect, if_neg (by omega), if_neg (by omega), if_pos (by omega), if_neg (by simp [hq])]
  iterate 4 rw [if_neg (by omega)]
  rw [if_pos (by omega), hk]
  exact ⟨_, rfl, fun i => getElem_digestSetWord s.digest k w i.isLt⟩

theorem writeEffect_key {s : State} (hq : s.seq = .idle) (hm : s.key.wf = true) {k : Nat} (w : Word)
    (hk : inputOffset s.cfg (0x400 + 4 * k)) :
    writeEffect s (0x400 + 4 * k) w { s with key := s.key.writeWord k w } := by
  have hdiv : (0x400 + 4 * k - 0x400) / 4 = k := by omega
  rw [writeEffect, if_neg (by omega), if_neg (by omega), if_pos hk, if_neg (by simp [hq])]
  iterate 5 rw [if_neg (by omega)]
  rw [hdiv]
  exact ⟨_, rfl, Memory.writeWord_wf hm k w, Memory.read_writeWord_lanes hm k w⟩

/-- TRUNC takes the low 31 bits of the word (10_state.md R30). -/
theorem setWidth_valueMask (w : Word) : (w &&& valueMask).setWidth 31 = BitVec.ofNat 31 w.toNat := by
  have hmask : valueMask.setWidth 31 = BitVec.allOnes 31 := by decide
  rw [BitVec.setWidth_and, hmask, BitVec.and_allOnes, ← BitVec.ofNat_toNat]

/-- What a write makes of the block, as R57 says it of the offset. -/
theorem LiesAt.writeEffect_writeReg {s : State} {n : Nat} {r : Reg} (h : LiesAt s.cfg n r) (hc : s.cfg.wf = true)
    (hm : s.key.wf = true) (w : Word) : writeEffect s n w (s.writeReg r w) := by
  obtain ⟨h4, -, hmax⟩ := config_wf_iff.1 hc
  cases h with
  | cmd => exact writeCmd_eq s w
  | status => rfl
  | time | keyLen | step => exact writeEffect_writeInput (by omega) fun hq => by simp [writeEffect, inputOffset, hq]
  | trunc =>
    rw [State.writeReg, setWidth_valueMask]
    exact writeEffect_writeInput (by omega) fun hq => by simp [writeEffect, inputOffset, hq]
  | digest k => exact writeEffect_writeInput (by omega) fun hq => writeEffect_digest hq k w
  | key k =>
    have hk : inputOffset s.cfg (0x400 + 4 * k) := by omega
    exact writeEffect_writeInput hk fun hq => writeEffect_key hq hm w hk
  | offset | codeIdx | codeLo | codeHi => exact writeEffect_same w (by omega) (by omega)
  | reserved _ hscalar hdigest hkey => exact writeEffect_same w (by omega) (by omega)

/-! ### The statements -/

/-- Settles O26: the register at the offset reads as the number that R56 gives. -/
theorem windowReads : Obligations.WindowReads := by
  intro s off rest haligned hs
  rw [step_read haligned hs, (liesAt_regAt s.cfg haligned).readReg_eq]

/-- Settles O27: the write at the offset is the write of its register, `LiesAt.writeEffect_writeReg`. -/
theorem windowWrites : Obligations.WindowWrites := by
  intro s off w rest hc hm haligned hs
  have hmap := liesAt_regAt s.cfg haligned
  exact ⟨_, step_write haligned hs, hmap.writeEffect_writeReg (s := { s with schedule := rest }) hc hm w⟩

/-- Settles O25: the host's move is the bus error, which the hardware answers by using the move up. -/
theorem busErrorChangesNothing : Obligations.BusErrorChangesNothing := by
  intro s off width w rest hbad hs
  have hstep : step s = .fault (.busError off width) := by
    rcases hs with hs | hs
    · rw [step_cons hs]; exact hostRead_fault hbad
    · rw [step_cons hs]; exact hostWrite_fault hbad
  have hrest : s.schedule.tail = rest := by rcases hs with hs | hs <;> rw [hs, List.tail_cons]
  exact ⟨hstep, by rw [hardwareStep_busError hstep, hrest]⟩

/-- Settles O28: the map has no register at such an offset. -/
theorem reservedOffsets : Obligations.ReservedOffsets := by
  intro s off w rest hc haligned hres
  have hreg : regAt s.cfg off = .reserved := (liesAt_regAt s.cfg haligned).eq_reserved hc hres
  constructor
  · intro hs
    rw [step_read haligned hs, hreg]
    rfl
  · intro hs
    rw [step_write haligned hs, hreg]
    rfl

end Sys2Proof.Machine
end

section
/-! PROOFS. A CMD word that encodes no command (30_encoding.md R74, R75): what the decoder answers, and what becomes
of the word once it is written to CMD. -/

namespace Sys2Proof

/-! ### The fields of a CMD word in arithmetic (30_encoding.md R71) -/

theorem opField_toNat (w : Word) : (opField w).toNat = w.toNat % 256 := by
  simp [opField]

theorem rsvdField_toNat (w : Word) : (rsvdField w).toNat = w.toNat / 256 := by
  have hlt : w.toNat / 256 < 2 ^ 24 := by omega
  rw [rsvdField, BitVec.extractLsb'_toNat, Nat.shiftRight_eq_div_pow, Nat.mod_eq_of_lt hlt]

/-! ### The words the decoder rejects -/

theorem decode_reservedBits {w : Word} (h : w.toNat / 256 ≠ 0) : decode w = .error .reservedBits := by
  have hrsvd : rsvdField w ≠ 0 := fun h0 => h (by rw [← rsvdField_toNat, h0]; rfl)
  rw [decode, if_pos hrsvd]

theorem decode_reservedOpcode {w : Word} (hrsvd : w.toNat / 256 = 0) (hop : 8 ≤ w.toNat % 256) :
    decode w = .error .reservedOpcode := by
  have hrsvd0 : rsvdField w = 0 := BitVec.eq_of_toNat_eq (by rw [rsvdField_toNat, hrsvd]; rfl)
  rw [← opField_toNat] at hop
  rw [decode, if_neg (not_not.2 hrsvd0)]
  split
  case h_9 => rfl
  all_goals omega

/-- A nonzero RSVD or a reserved OP each keeps a word from decoding; RSVD is looked at first (R75). -/
theorem exists_decode_eq_error {w : Word} (h : w.toNat / 256 ≠ 0 ∨ 8 ≤ w.toNat % 256) :
    ∃ d, decode w = .error d := by
  by_cases hrsvd : w.toNat / 256 = 0
  · exact ⟨_, decode_reservedOpcode hrsvd (h.resolve_left (not_not.2 hrsvd))⟩
  · exact ⟨_, decode_reservedBits hrsvd⟩

end Sys2Proof

namespace Sys2Proof.Machine

open Sys2Proof.Claims

/-! ### Acceptance and completion as steps -/

theorem run_succ {s t : State} (n : Nat) (h : step s = .next t) : run (n + 1) s = run n t := by
  rw [run, h]

/-- A CMD write that meets the condition of 43_orchestration.md R164 is accepted, whatever the word. -/
theorem step_acceptCmd {s : State} {w : Word} {rest : List Event} (hs : s.schedule = .write 0x000 4 w :: rest)
    (hq : s.seq = .idle) (hf : s.status.fault = false) :
    step s = .next (State.accept { s with schedule := rest } w) := by
  rw [step_write rfl hs]
  exact congrArg _ (writeCmd_accept (s := { s with schedule := rest }) hq hf)

/-- The sequencer completes a word that does not decode with BAD_CMD (30_encoding.md R75). -/
theorem step_badCmd {s : State} {w : Word} {d : DecodeError} {rest : List Event} (hs : s.schedule = .sequencer :: rest)
    (hq : s.seq = .inflight w) (hd : decode w = .error d) :
    step s = .next (State.failed { s with schedule := rest } .badCmd) := by
  rw [step_cons hs]
  exact (sequencerTurn_inflight (s := { s with schedule := rest }) hq).trans (complete_error hd)

/-- After acceptance and BAD_CMD, STATUS is what R165 says of ERRCODE 1: FAULT is not latched (60_exceptions.md
R211). -/
theorem Status.failed_badCmd_accepted (st : Status) : st.accepted.failed .badCmd = doneErr 1 st := by
  have hfault : (st.fault || decide (CmdError.badCmd = .clock)) = st.fault := Bool.or_false _
  rw [Status.failed, Status.accepted, hfault]
  rfl

/-- A command that fails with BAD_CMD leaves the block idle again, with STATUS alone changed since before its
acceptance (60_exceptions.md R200, R202). -/
theorem State.failed_badCmd_accept {s : State} (w : Word) (hq : s.seq = .idle) :
    (s.accept w).failed .badCmd = { s with status := doneErr 1 s.status } := by
  rw [← Status.failed_badCmd_accepted, State.failed, State.retire, ← hq]
  rfl

/-- Settles O5: the word is accepted by `step_acceptCmd`, does not decode, and completes with BAD_CMD by
`step_badCmd`; acceptance and the failed completion together leave every field but STATUS as it was. -/
theorem badCommandWordCompletes : Obligations.BadCommandWordCompletes := by
  intro s w rest hbad hq hf hs
  obtain ⟨d, hd⟩ := exists_decode_eq_error hbad
  rw [run_succ 1 (step_acceptCmd hs hq hf), run_succ 0 (step_badCmd rfl rfl hd)]
  exact congrArg _ (State.failed_badCmd_accept (s := { s with schedule := rest }) w hq)

end Sys2Proof.Machine
end

section
/-! PROOFS. The time-step divider (40_timestep.md R100) as division of numbers, and the command STEP (R101). -/

namespace Sys2Proof.Machine

open Sys2Proof.Claims

/-- The divider on numbers: floor division by 30 (40_timestep.md R100). -/
theorem timeStep_toNat (t : Word) : (timeStep t).toNat = t.toNat / 30 := BitVec.toNat_udiv

theorem timeStep_eq_ofNat (t : Word) : timeStep t = BitVec.ofNat 32 (t.toNat / 30) := by
  rw [← timeStep_toNat, BitVec.ofNat_toNat, BitVec.setWidth_eq]

/-- STEP always succeeds, with the time step of TIME as its one staged result (40_timestep.md R101). -/
theorem exec_step (s : State) :
    exec .step s = .next ((s.put (.step (timeStep s.time))).retire s.status.succeeded) :=
  finish_ok [.step (timeStep s.time)] s

/-- STATUS after a success is what 43_orchestration.md R165 says of it. -/
theorem Status.succeeded_eq_doneOk (st : Status) : st.succeeded = doneOk st := rfl

/-- Settles O7: the completion of STEP is `exec_step`, the value it commits is `timeStep_eq_ofNat`, and its STATUS is
`Status.succeeded_eq_doneOk`; putting STEP and retiring touch no other field. -/
theorem stepResult : Obligations.StepResult := by
  have hdecode : decode 0x00000001 = .ok .step := by decide
  refine ⟨hdecode, fun s => ?_⟩
  rw [exec_step, timeStep_eq_ofNat, Status.succeeded_eq_doneOk]
  rfl

end Sys2Proof.Machine
end

section
/-! PROOFS. The keyed hash and dynamic truncation (41_keyed_hash.md) in arithmetic: the message of a time step
(R121), the truncated integer (R124), and the commands HMAC (R123) and TRUNC (R125). -/

namespace Sys2Proof.Machine

open Sys2Proof.Claims

/-! ### The message -/

/-- Big-endian order is the byte lanes of the word from the highest down (00_scope.md R11). -/
theorem be32_eq_laneOf (v : Word) : be32 v = #v[laneOf v 3, laneOf v 2, laneOf v 1, laneOf v 0] := by
  simp only [← lane_eq_laneOf]
  rfl

/-- The message in arithmetic: lane 0 is the step itself mod 2^8 (41_keyed_hash.md R121). -/
theorem counterMessage_eq_messageOf (step : Word) : counterMessage step = messageOf step.toNat := by
  have hlow : laneOf step 0 = BitVec.ofNat 8 step.toNat := by rw [laneOf, Nat.mul_zero, Nat.pow_zero, Nat.div_one]
  rw [counterMessage, be32_eq_laneOf, hlow]
  rfl

/-- Settles O10: the bytes after the four zeros are the lanes of the step, from the highest down. -/
theorem counterMessageLayout : Obligations.CounterMessageLayout := counterMessage_eq_messageOf

/-! ### Dynamic truncation -/

/-- OFFSET_MASK keeps the low nibble (41_keyed_hash.md R124). -/
theorem setWidth_offsetMask (b : Byte) : (b &&& offsetMask).setWidth 4 = BitVec.ofNat 4 b.toNat := by
  have hmask : offsetMask.setWidth 4 = BitVec.allOnes 4 := by decide
  rw [BitVec.setWidth_and, hmask, BitVec.and_allOnes, ← BitVec.ofNat_toNat]

theorem truncOffset_eq_ofNat (d : Digest) : truncOffset d = BitVec.ofNat 4 (offsetNat d) := by
  rw [truncOffset, setWidth_offsetMask, ← digestNat_eq (by omega), offsetNat]
  exact BitVec.eq_of_toNat_eq (by simp)

theorem truncOffset_toNat (d : Digest) : (truncOffset d).toNat = offsetNat d := by
  rw [truncOffset_eq_ofNat, BitVec.toNat_ofNat, offsetNat, Nat.mod_mod]

/-- A big-endian word is the word with the same bytes as lanes in the opposite order (00_scope.md R11). -/
theorem fromBe32_eq_ofLanes (v : Vector Byte 4) : fromBe32 v = ofLanes v[3] v[2] v[1] v[0] := by
  rw [fromBe32, ofLanes, BitVec.or_comm _ (v[3].setWidth 32), BitVec.or_comm _ (v[2].setWidth 32 <<< 8),
    BitVec.or_comm _ (v[1].setWidth 32 <<< 16), ← BitVec.or_assoc, ← BitVec.or_assoc]

/-- Byte `j` of the window is byte `off + j` of the digest (41_keyed_hash.md R124). -/
theorem truncWindow_toNat (d : Digest) (off : BitVec 4) {j : Nat} (hj : j < 4) :
    (truncWindow d off)[j].toNat = digestNat d (off.toNat + j) := by
  rw [digestNat_eq (by omega)]
  interval_cases j <;> rfl

/-- The truncated integer is the big-endian sum of the four bytes at the offset, mod 2^31 (41_keyed_hash.md R124). -/
theorem truncValue_eq_ofNat (d : Digest) : truncValue d = BitVec.ofNat 31 (truncNat d) := by
  rw [truncValue, setWidth_valueMask, fromBe32_eq_ofLanes, ofLanes_eq_ofNat]
  simp only [truncWindow_toNat, truncOffset_toNat]
  apply BitVec.eq_of_toNat_eq
  simp only [BitVec.toNat_ofNat, truncNat, Nat.add_zero]
  omega

/-! ### The commands -/

/-- HMAC within KEY_MAX succeeds, with the digest of STEP as its one staged result (41_keyed_hash.md R123). -/
theorem exec_hmac_ok {s : State} (h : s.keyLen.toNat ≤ s.cfg.keyMax) :
    exec .hmac s = .next ((s.put (.digest (digestOf s s.step.toNat))).retire s.status.succeeded) := by
  rw [exec, execHmac, hmacKey_ok h, counterMessage_eq_messageOf]
  exact finish_ok [.digest (digestOf s s.step.toNat)] s

/-- HMAC above KEY_MAX fails with KEY_SETUP (60_exceptions.md R203). -/
theorem exec_hmac_keySetup {s : State} (h : s.cfg.keyMax < s.keyLen.toNat) :
    exec .hmac s = .next (s.failed .keySetup) := by
  rw [exec, execHmac, hmacKey_error h]
  exact finish_keySetup s

/-- STATUS after KEY_SETUP is what 43_orchestration.md R165 says of ERRCODE 2: FAULT is not latched (60_exceptions.md
R211). -/
theorem Status.failed_keySetup (st : Status) : st.failed .keySetup = doneErr 2 st := by
  have hfault : (st.fault || decide (CmdError.keySetup = .clock)) = st.fault := Bool.or_false _
  rw [Status.failed, hfault]
  rfl

/-- Settles O11: the two completions are `exec_hmac_ok` and `exec_hmac_keySetup`; on either side of KEY_MAX the rest
of the state is as it was. -/
theorem hmacResult : Obligations.HmacResult := by
  have hdecode : decode 0x00000002 = .ok .hmac := by decide
  refine ⟨hdecode, fun s => ⟨fun h => ?_, fun h => ?_⟩⟩
  · rw [exec_hmac_ok h, Status.succeeded_eq_doneOk]
    rfl
  · rw [exec_hmac_keySetup h, State.failed, Status.failed_keySetup]
    rfl

/-- TRUNC always succeeds, with the results of the truncation unit on DIGEST (41_keyed_hash.md R125). -/
theorem exec_trunc (s : State) :
    exec .trunc s = .next ((s.commit (stageTrunc s.digest)).retire s.status.succeeded) :=
  finish_ok (stageTrunc s.digest) s

/-- Settles O12: TRUNC commits what the truncation unit stages, `exec_trunc`, which in arithmetic is
`truncOffset_eq_ofNat` and `truncValue_eq_ofNat`. -/
theorem truncResult : Obligations.TruncResult := by
  have hdecode : decode 0x00000003 = .ok .trunc := by decide
  refine ⟨hdecode, fun s => ?_⟩
  rw [exec_trunc, stageTrunc, truncOffset_eq_ofNat, truncValue_eq_ofNat, Status.succeeded_eq_doneOk]
  rfl

end Sys2Proof.Machine
end

section
/-! PROOFS. The base-26 encoder (42_encoder.md R140) and the packing of its result (R141) in arithmetic, and the
command ENCODE. -/

namespace Sys2Proof.Machine

open Sys2Proof.Claims

/-! ### The digits and their symbols -/

/-- Each round of the encoder divides by 26 once more, so its digits are those of the base-26 numeral
(42_encoder.md R140). -/
theorem codeDigits_val (v : BitVec 31) {i : Nat} (hi : i < 5) : (codeDigits v)[i].val = digitNat v.toNat i := by
  interval_cases i <;> simp [codeDigits, digit, radix, digitNat, Nat.div_div_eq_div_mul]

/-- The alphabet's bytes are the character codes of its symbols (00_scope.md R13). -/
theorem alpha_toNat (i : Fin 26) : (alpha i).toNat = symbolCode i.val := by
  revert i
  decide

theorem alpha_codeDigits_toNat (v : BitVec 31) {i : Nat} (hi : i < 5) :
    (alpha (codeDigits v)[i]).toNat = symbolCode (digitNat v.toNat i) := by
  rw [alpha_toNat, codeDigits_val v hi]

/-! ### The packed registers -/

/-- A base-26 digit fits its five-bit field (42_encoder.md R141). -/
theorem digitNat_lt (v i : Nat) : digitNat v i < 26 := Nat.mod_lt _ (by decide)

/-- CODEIDX is the five digits, by weight (42_encoder.md R141). -/
theorem packIdx_codeDigits (v : BitVec 31) :
    packIdx (codeDigits v) = BitVec.ofNat 25 (codeIdxNat v.toNat) := by
  have h0 := digitNat_lt v.toNat 0
  have h1 := digitNat_lt v.toNat 1
  have h2 := digitNat_lt v.toNat 2
  have h3 := digitNat_lt v.toNat 3
  simp only [packIdx, codeDigits_val]
  rw [ofNat_or_shiftLeft (by omega), ofNat_or_shiftLeft (by omega), ofNat_or_shiftLeft (by omega),
    ofNat_or_shiftLeft (by omega), codeIdxNat]

/-- CODE_LO is the symbols of digits 0 to 3, by weight (42_encoder.md R141). -/
theorem packLo_codeDigits (v : BitVec 31) :
    packLo (codeDigits v) = BitVec.ofNat 32 (codeLoNat v.toNat) := by
  simp only [packLo, ofLanes_eq_ofNat, alpha_codeDigits_toNat, codeLoNat]

/-- CODE_HI is the symbol of digit 4 (42_encoder.md R141). -/
theorem packHi_codeDigits (v : BitVec 31) :
    packHi (codeDigits v) = BitVec.ofNat 8 (codeHiNat v.toNat) := by
  rw [codeHiNat, ← alpha_codeDigits_toNat v (by omega), BitVec.ofNat_toNat, BitVec.setWidth_eq, packHi]

/-! ### The command -/

/-- ENCODE always succeeds, with the results of the encoder on TRUNC (42_encoder.md R141). -/
theorem exec_encode (s : State) :
    exec .encode s = .next ((s.commit (stageCode s.trunc)).retire s.status.succeeded) :=
  finish_ok (stageCode s.trunc) s

/-- Settles O13: ENCODE commits what the encoder stages, `exec_encode`, which in arithmetic is `packIdx_codeDigits`,
`packLo_codeDigits` and `packHi_codeDigits`. -/
theorem encodeResult : Obligations.EncodeResult := by
  have hdecode : decode 0x00000004 = .ok .encode := by decide
  refine ⟨hdecode, fun s => ?_⟩
  rw [exec_encode, stageCode, packIdx_codeDigits, packLo_codeDigits, packHi_codeDigits, Status.succeeded_eq_doneOk]
  rfl

end Sys2Proof.Machine
end

section
/-! PROOFS. The entry points (43_orchestration.md): when a CMD write is accepted (R164), the sequencer's turn on a word
that decodes (R165), and the command NOP (R160). -/

namespace Sys2Proof.Machine

open Sys2Proof.Claims

/-! ### Acceptance -/

/-- A host write to CMD is a step of the block whatever the block's state (43_orchestration.md R164). -/
theorem step_writeCmd {s : State} {w : Word} {rest : List Event} (hs : s.schedule = .write 0x000 4 w :: rest) :
    step s = .next (State.writeCmd { s with schedule := rest } w) :=
  step_write rfl hs

/-- Settles O4: the write is `step_writeCmd`, and `writeCmd_eq` says under which condition it is accepted; acceptance
and a dropped write change the fields that R164 and 20_memory.md R57 name. -/
theorem cmdWriteAcceptance : Obligations.CmdWriteAcceptance := by
  intro s w rest hs
  rw [step_writeCmd hs, writeCmd_eq]
  rfl

/-! ### NOP -/

/-- The sequencer completes a word that decodes with the meaning of its command (43_orchestration.md R165). -/
theorem step_exec {s : State} {w : Word} {i : Instr} {rest : List Event} (hs : s.schedule = .sequencer :: rest)
    (hq : s.seq = .inflight w) (hd : decode w = .ok i) : step s = exec i { s with schedule := rest } := by
  rw [step_cons hs]
  exact (sequencerTurn_inflight (s := { s with schedule := rest }) hq).trans (complete_ok hd)

/-- NOP always succeeds, with nothing staged (43_orchestration.md R160). -/
theorem exec_nop (s : State) : exec .nop s = .next (s.retire s.status.succeeded) :=
  finish_ok [] s

/-- Acceptance and a completion that commits nothing leave the block idle again, with STATUS alone changed
(43_orchestration.md R164, R165). -/
theorem State.retire_accept {s : State} (w : Word) (st : Status) (hq : s.seq = .idle) :
    (s.accept w).retire st = { s with status := st } := by
  rw [State.retire, ← hq]
  rfl

/-- From any state that accepts a command, `run NOP` with no busy poll is the accepted write, the completion, and one
read of STATUS as the completion left it (30_encoding.md R78). -/
theorem run_nop {s : State} (hs : s.schedule = (ScriptLine.run .nop 0).events) (hq : s.seq = .idle)
    (hf : s.status.fault = false) :
    run 3 s = .next { s with schedule := [], status := doneOk s.status,
                             reads := s.reads ++ [(doneOk s.status).toWord] } := by
  have hdecode : decode (encode .nop) = .ok .nop := by decide
  have haccept : step s = .next (State.accept { s with schedule := waitEvents 0 } (encode .nop)) :=
    step_acceptCmd hs hq hf
  have hcomplete : step (State.accept { s with schedule := waitEvents 0 } (encode .nop)) =
      .next { s with schedule := [busRead 0x004], status := doneOk s.status } := by
    rw [step_exec rfl rfl hdecode, exec_nop]
    exact congrArg _ (State.retire_accept (s := { s with schedule := [busRead 0x004] }) _ _ hq)
  rw [run_succ 2 haccept, run_succ 1 hcomplete]
  exact run_succ 0 (step_read (off := 0x004) rfl rfl)

/-- STATUS with DONE alone set reads 2 (10_state.md R23). -/
theorem Status.toWord_doneOk_cleared : (doneOk Status.cleared).toWord = 0x00000002 := by decide

/-- Settles O6: in every state NOP's completion is `exec_nop`, and the run after reset is `run_nop` with the word that
`Status.toWord_doneOk_cleared` gives. -/
theorem nopResult : Obligations.NopResult := by
  have hdecode : decode 0x00000000 = .ok .nop := by decide
  have hstatus : State.reset.status = Status.cleared := rfl
  refine ⟨hdecode, fun s => ?_, ?_⟩
  · rw [exec_nop, Status.succeeded_eq_doneOk]
    rfl
  · rw [run_nop rfl rfl rfl, hstatus, Status.toWord_doneOk_cleared]
    rfl

end Sys2Proof.Machine
end

section
/-! PROOFS. The errors of a command (60_exceptions.md): the clock sample (R216), the two ways a command fails (R202 to
R204), the commands that sample the clock, READ_CLOCK (40_timestep.md R102) and GEN_NOW (43_orchestration.md R162), and
the sequencer's turn with the errors it can report (R207, R220). -/

namespace Sys2Proof.Machine

open Sys2Proof.Claims

/-! ### The clock sample -/

/-- A sample takes the next draw, or the free value when none is listed (60_exceptions.md R216). -/
theorem sampleClock_eq (s : State) : s.sampleClock = (clockNow s, sampled s) := by
  cases hd : s.draws with
  | nil =>
    rw [sampleClock_nil hd]
    simp [clockNow, sampled, hd]
  | cons c cs =>
    rw [sampleClock_cons hd]
    simp [clockNow, sampled, hd]

/-- The seconds of a sample as TIME takes them (40_timestep.md R103). -/
theorem toNat_clockNow_setWidth (s : State) : ((clockNow s).seconds.setWidth 32).toNat = nowSeconds s :=
  BitVec.toNat_setWidth _ _

theorem clockNow_setWidth_eq_ofNat (s : State) :
    (clockNow s).seconds.setWidth 32 = BitVec.ofNat 32 (nowSeconds s) := by
  rw [← toNat_clockNow_setWidth, BitVec.ofNat_toNat, BitVec.setWidth_eq]

/-! ### A command that fails -/

/-- A failure other than CLOCK changes STATUS and the sequencer, and leaves FAULT (43_orchestration.md R165,
60_exceptions.md R211). -/
theorem State.failed_of_ne_clock {e : CmdError} (he : e ≠ .clock) (s : State) :
    s.failed e = { s with status := doneErr e.code s.status, seq := .idle } := by
  have hfault : (s.status.fault || decide (e = .clock)) = s.status.fault := by
    rw [decide_eq_false he, Bool.or_false]
  rw [State.failed, Status.failed, hfault]
  rfl

/-- CLOCK changes what the other failures change, and latches FAULT (60_exceptions.md R204, R211). -/
theorem State.failed_clock (s : State) :
    s.failed .clock = { s with status := { doneErr 3 s.status with fault := true }, seq := .idle } := by
  have hfault : (s.status.fault || decide (CmdError.clock = .clock)) = true := Bool.or_true _
  rw [State.failed, Status.failed, hfault]
  rfl

/-! ### READ_CLOCK -/

/-- READ_CLOCK is one body, on the state after one clock sample (40_timestep.md R102). -/
theorem exec_readClock (s : State) :
    exec .readClock s =
      finish (if (clockNow s).valid then .ok [.time ((clockNow s).seconds.setWidth 32)] else .error .clock)
        (sampled s) := by
  rw [exec, execReadClock, sampleClock_eq]

theorem exec_readClock_valid {s : State} (hv : (clockNow s).valid = true) :
    exec .readClock s =
      .next (((sampled s).put (.time (BitVec.ofNat 32 (nowSeconds s)))).retire s.status.succeeded) := by
  rw [exec_readClock, if_pos hv, clockNow_setWidth_eq_ofNat]
  exact finish_ok _ (sampled s)

theorem exec_readClock_invalid {s : State} (hv : (clockNow s).valid = false) :
    exec .readClock s = .fault (.clockError ((sampled s).failed .clock)) := by
  rw [exec_readClock, if_neg (Bool.eq_false_iff.1 hv)]
  exact finish_clock (sampled s)

/-- Settles O9: on either side of `valid` the completion is `exec_readClock_valid` or `exec_readClock_invalid`, and
`State.failed_clock` says which state the fault carries. -/
theorem readClockResult : Obligations.ReadClockResult := by
  have hdecode : decode 0x00000007 = .ok .readClock := by decide
  refine ⟨hdecode, fun s => ⟨fun hv => ?_, fun hv => ?_⟩⟩
  · rw [exec_readClock_valid hv, Status.succeeded_eq_doneOk]
    rfl
  · rw [exec_readClock_invalid hv, State.failed_clock]
    rfl

/-! ### The body of GEN_TIME -/

/-- What the body of GEN_TIME stages for the timestamp `t`, in arithmetic (43_orchestration.md R161); `generate_ok`
ties it to the model. -/
def codeResults (s : State) (t : Nat) : List Staged :=
  [.step (BitVec.ofNat 32 (t / 30)), .digest (digestOf s (t / 30)),
   .offset (BitVec.ofNat 4 (offsetNat (digestOf s (t / 30)))), .trunc (BitVec.ofNat 31 (valueOf s t)),
   .codeIdx (BitVec.ofNat 25 (codeIdxNat (valueOf s t))), .codeLo (BitVec.ofNat 32 (codeLoNat (valueOf s t))),
   .codeHi (BitVec.ofNat 8 (codeHiNat (valueOf s t)))]

/-- The truncated integer has 31 bits, so none is lost in TRUNC (41_keyed_hash.md R124). -/
theorem truncValue_toNat (d : Digest) : (truncValue d).toNat = truncNat d := by
  rw [truncValue_eq_ofNat, BitVec.toNat_ofNat, truncNat, Nat.mod_mod]

theorem stageTrunc_eq_ofNat (d : Digest) :
    stageTrunc d = [.offset (BitVec.ofNat 4 (offsetNat d)), .trunc (BitVec.ofNat 31 (truncNat d))] := by
  rw [stageTrunc, truncOffset_eq_ofNat, truncValue_eq_ofNat]

theorem stageCode_eq_ofNat (v : BitVec 31) :
    stageCode v = [.codeIdx (BitVec.ofNat 25 (codeIdxNat v.toNat)), .codeLo (BitVec.ofNat 32 (codeLoNat v.toNat)),
      .codeHi (BitVec.ofNat 8 (codeHiNat v.toNat))] := by
  rw [stageCode, packIdx_codeDigits, packLo_codeDigits, packHi_codeDigits]

/-- The digest of GEN_TIME is the keyed hash of the time step as a number (41_keyed_hash.md R123). -/
theorem hmacSha1_timeStep (s : State) (t : Word) :
    Config.hmacSha1 (keyBytes s.key s.keyLen.toNat) (counterMessage (timeStep t)) = digestOf s (t.toNat / 30) := by
  rw [counterMessage_eq_messageOf, timeStep_toNat]
  rfl

theorem generate_ok {s : State} (h : s.keyLen.toNat ≤ s.cfg.keyMax) (t : Word) :
    s.generate t = .ok (codeResults s t.toNat) := by
  rw [State.generate, hmacKey_ok h]
  dsimp only
  rw [hmacSha1_timeStep, stageTrunc_eq_ofNat, stageCode_eq_ofNat, truncValue_toNat, timeStep_eq_ofNat]
  rfl

theorem generate_keySetup {s : State} (h : s.cfg.keyMax < s.keyLen.toNat) (t : Word) :
    s.generate t = .error .keySetup := by
  rw [State.generate, hmacKey_error h]

/-- GEN_TIME above KEY_MAX fails with KEY_SETUP (60_exceptions.md R203). -/
theorem exec_genTime_keySetup {s : State} (h : s.cfg.keyMax < s.keyLen.toNat) :
    exec .genTime s = .next (s.failed .keySetup) := by
  rw [exec, execGenTime, generate_keySetup h]
  exact finish_keySetup s

/-! ### GEN_NOW -/

/-- GEN_NOW is one body, on the state after one clock sample (43_orchestration.md R162). -/
theorem exec_genNow (s : State) :
    exec .genNow s = finish ((sampled s).generateNow (clockNow s)) (sampled s) := by
  rw [exec, execGenNow, sampleClock_eq]

theorem exec_genNow_ok {s : State} (hv : (clockNow s).valid = true) (h : s.keyLen.toNat ≤ s.cfg.keyMax) :
    exec .genNow s =
      .next (((sampled s).commit (.time (BitVec.ofNat 32 (nowSeconds s)) :: codeResults s (nowSeconds s))).retire
        s.status.succeeded) := by
  have hg := generate_ok (s := sampled s) h ((clockNow s).seconds.setWidth 32)
  rw [toNat_clockNow_setWidth] at hg
  rw [exec_genNow, State.generateNow, if_pos hv, hg, clockNow_setWidth_eq_ofNat]
  exact finish_ok _ (sampled s)

/-- KEYLEN is looked at once the sample is known to be valid (60_exceptions.md R207). -/
theorem exec_genNow_keySetup {s : State} (hv : (clockNow s).valid = true) (h : s.cfg.keyMax < s.keyLen.toNat) :
    exec .genNow s = .next ((sampled s).failed .keySetup) := by
  rw [exec_genNow, State.generateNow, if_pos hv, generate_keySetup (s := sampled s) h]
  exact finish_keySetup (sampled s)

/-- An invalid sample is CLOCK whatever KEYLEN is (60_exceptions.md R207). -/
theorem exec_genNow_invalid {s : State} (hv : (clockNow s).valid = false) :
    exec .genNow s = .fault (.clockError ((sampled s).failed .clock)) := by
  rw [exec_genNow, State.generateNow, if_neg (Bool.eq_false_iff.1 hv)]
  exact finish_clock (sampled s)

/-- Settles O15: the three completions are `exec_genNow_ok`, whose results `generate_ok` puts in arithmetic,
`exec_genNow_keySetup` and `exec_genNow_invalid`. -/
theorem genNowResult : Obligations.GenNowResult := by
  have hdecode : decode 0x00000006 = .ok .genNow := by decide
  refine ⟨hdecode, fun s => ⟨fun hv h => ?_, fun hv h => ?_, fun hv => ?_⟩⟩
  · rw [exec_genNow_ok hv h, Status.succeeded_eq_doneOk]
    rfl
  · rw [exec_genNow_keySetup hv h, State.failed_of_ne_clock (by decide)]
    rfl
  · rw [exec_genNow_invalid hv, State.failed_clock]
    rfl

/-- Settles O18: each of the three commands above KEY_MAX is the same failure (`exec_hmac_keySetup`,
`exec_genTime_keySetup`, `exec_genNow_keySetup`), and `State.failed_of_ne_clock` says what it changes. -/
theorem keySetupError : Obligations.KeySetupError := by
  have hne : CmdError.keySetup ≠ .clock := by decide
  refine fun s h => ⟨?_, ?_, fun hv => ?_⟩
  · rw [exec_hmac_keySetup h, State.failed_of_ne_clock hne]
    rfl
  · rw [exec_genTime_keySetup h, State.failed_of_ne_clock hne]
    rfl
  · rw [exec_genNow_keySetup hv h, State.failed_of_ne_clock hne]
    rfl

/-! ### The sequencer's turn -/

/-- A turn that the schedule lists and one that an empty schedule gives are the same step (log 1). -/
theorem step_sequencerNext {s : State} {rest : List Event} (h : sequencerNext s rest) :
    step s = sequencerTurn { s with schedule := rest } := by
  obtain hs | ⟨hs, rfl⟩ := h
  · exact step_cons hs
  · rw [step_nil hs, ← hs]

/-- Settles O47: the step is the sequencer's turn, `step_sequencerNext`, and an idle block stays as it is,
`sequencerTurn_idle`. -/
theorem idleBlockHoldsRegisters : Obligations.IdleBlockHoldsRegisters := by
  intro s rest hq hnext
  rw [step_sequencerNext hnext]
  exact sequencerTurn_idle hq

/-- Settles O20: a word that does not decode never reaches a command, so neither the clock nor KEYLEN is looked at
(`complete_error`); in GEN_NOW the sample decides between `exec_genNow_invalid` and `exec_genNow_keySetup`. -/
theorem errorPriority : Obligations.ErrorPriority := by
  refine ⟨fun s w rest hq hbad hnext => ?_, fun s hv _ => ?_, fun s hv h => ?_⟩
  · obtain ⟨d, hd⟩ := exists_decode_eq_error hbad
    rw [step_sequencerNext hnext, sequencerTurn_inflight (s := { s with schedule := rest }) hq, complete_error hd,
      State.failed_of_ne_clock (by decide)]
    rfl
  · exact ⟨_, exec_genNow_invalid hv, rfl⟩
  · exact ⟨_, exec_genNow_keySetup hv h, rfl⟩

/-! ### No refusal -/

theorem sequencerTurn_not_refused (s : State) (x : Refusal) : sequencerTurn s ≠ .refused x := by
  cases hq : s.seq with
  | idle =>
    rw [sequencerTurn_idle hq]
    exact nofun
  | inflight w =>
    obtain ⟨r, u, hc, -⟩ := complete_shape w s
    rw [sequencerTurn_inflight hq, hc]
    exact finish_not_refused

/-- A host access either has its effect or is a bus error; reset is always taken. -/
theorem move_not_refused (e : Event) (s : State) (x : Refusal) : move e s ≠ .refused x := by
  cases e with
  | read off width =>
    rw [move, hostRead]
    split <;> exact nofun
  | write off width w =>
    rw [move, hostWrite]
    split <;> exact nofun
  | sequencer => exact sequencerTurn_not_refused s x
  | reset => exact nofun

/-- Settles O23: a step is one agent's move or the sequencer's turn, and neither is refused (`move_not_refused`,
`sequencerTurn_not_refused`). -/
theorem noStepRefused : Obligations.NoStepRefused := by
  intro s x
  cases hs : s.schedule with
  | nil =>
    rw [step_nil hs]
    exact sequencerTurn_not_refused s x
  | cons e es =>
    rw [step_cons hs]
    exact move_not_refused e { s with schedule := es } x

end Sys2Proof.Machine
end

section
/-! PROOFS. The end of a run (70_reset_and_hazards.md R249): which states it can end in, that a run goes on without a
fault from such a state, and that `State.final` is the first such state of the run. -/

namespace Sys2Proof.Machine

open Sys2Proof.Claims

/-! ### The conditions of R249 -/

theorem Event.byHost_eq_false_iff (e : Event) : e.byHost = false ↔ e = .sequencer ∨ e = .reset := by
  cases e <;> simp [Event.byHost]

/-- The model's check of R249 is the one the statements write out. -/
theorem settled_iff_runOver {s : State} : s.settled = true ↔ runOver s := by
  simp [State.settled, State.hostDone, runOver, Event.byHost_eq_false_iff, and_assoc]

theorem settled_eq_false_iff {s : State} : s.settled = false ↔ ¬ runOver s := by
  rw [← settled_iff_runOver, Bool.not_eq_true]

/-- The moves that may still stand in the schedule keep the conditions: an idle block holds its registers at a turn of
the sequencer, and reset clears FAULT. -/
theorem runOver_step {s : State} (h : runOver s) : ∃ t, step s = .next t ∧ runOver t := by
  obtain ⟨hsched, hq, hf⟩ := h
  cases hs : s.schedule with
  | nil => exact ⟨s, by rw [step_nil hs, sequencerTurn_idle hq], hsched, hq, hf⟩
  | cons e es =>
    rw [hs, List.forall_mem_cons] at hsched
    obtain ⟨rfl | rfl, hes⟩ := hsched
    · exact ⟨{ s with schedule := es }, (step_cons hs).trans (sequencerTurn_idle hq), hes, hq, hf⟩
    · exact ⟨State.takeReset { s with schedule := es }, step_cons hs, hes, rfl, rfl⟩

/-! ### Runs -/

theorem run_zero_eq_next {s t : State} : run 0 s = .next t ↔ s = t := by simp [run]

theorem run_succ_eq_next {s t : State} {n : Nat} :
    run (n + 1) s = .next t ↔ ∃ u, step s = .next u ∧ run n u = .next t := by
  cases hs : step s <;> simp [run, hs]

theorem runOver_run {s : State} (h : runOver s) (n : Nat) : ∃ t, run n s = .next t := by
  induction n generalizing s with
  | zero => exact ⟨s, rfl⟩
  | succ n ih =>
    obtain ⟨u, hu, hover⟩ := runOver_step h
    rw [run_succ n hu]
    exact ih hover

/-! ### The end state -/

/-- Induction along a run to its end state, from the end backwards. -/
theorem final_induction {t : State} {motive : (s : State) → s.final t → Prop}
    (hend : ∀ h : t.final t, runOver t → motive t h)
    (hnext : ∀ (s u : State) (h : s.final t) (hu : u.final t), ¬ runOver s → step s = .next u → motive u hu →
      motive s h) {s : State} (h : s.final t) : motive s h := by
  obtain ⟨n, hn⟩ := h
  induction n generalizing s with
  | zero =>
    obtain ⟨hs, rfl⟩ : s.settled = true ∧ s = t := by simpa [State.endState] using hn
    exact hend _ (settled_iff_runOver.1 hs)
  | succ n ih =>
    cases hs : s.settled with
    | true =>
      obtain rfl : s = t := Option.some.inj ((endState_settled _ hs).symm.trans hn)
      exact hend _ (settled_iff_runOver.1 hs)
    | false =>
      cases hstep : step s with
      | next u =>
        have hu : u.endState n = some t := (endState_next n hs hstep).symm.trans hn
        exact hnext s u _ ⟨n, hu⟩ (settled_eq_false_iff.1 hs) hstep (ih hu)
      | fault f => cases (endState_fault _ hs hstep).symm.trans hn
      | refused x => exact absurd hstep (noStepRefused s x)

/-- `t` is reached after `n` steps, all of them next states, and is the first state to meet the conditions of R249. -/
def EndsAfter (n : Nat) (s t : State) : Prop :=
  run n s = .next t ∧ runOver t ∧ ∀ (k : Nat) (u : State), k < n → run k s = .next u → ¬ runOver u

theorem endsAfter_zero {s t : State} : EndsAfter 0 s t ↔ s = t ∧ runOver t := by
  simp [EndsAfter, run_zero_eq_next]

theorem endsAfter_succ {s t : State} {n : Nat} :
    EndsAfter (n + 1) s t ↔ ¬ runOver s ∧ ∃ u, step s = .next u ∧ EndsAfter n u t := by
  constructor
  · rintro ⟨hrun, hover, hfirst⟩
    obtain ⟨u, hu, hrun⟩ := run_succ_eq_next.1 hrun
    refine ⟨hfirst 0 s n.succ_pos rfl, u, hu, hrun, hover, fun k v hk hv => ?_⟩
    exact hfirst (k + 1) v (Nat.succ_lt_succ hk) (run_succ_eq_next.2 ⟨u, hu, hv⟩)
  · rintro ⟨hs, u, hu, hrun, hover, hfirst⟩
    refine ⟨run_succ_eq_next.2 ⟨u, hu, hrun⟩, hover, fun k v hk hv => ?_⟩
    cases k with
    | zero => exact run_zero_eq_next.1 hv ▸ hs
    | succ k => exact hfirst k v (Nat.lt_of_succ_lt_succ hk) (run_succ k hu ▸ hv)

theorem final_iff_endsAfter {s t : State} : s.final t ↔ ∃ n, EndsAfter n s t := by
  constructor
  · intro h
    induction h using final_induction with
    | hend _ hover => exact ⟨0, endsAfter_zero.2 ⟨rfl, hover⟩⟩
    | hnext s u _ _ hs hu ih =>
      obtain ⟨n, hn⟩ := ih
      exact ⟨n + 1, endsAfter_succ.2 ⟨hs, u, hu, hn⟩⟩
  · rintro ⟨n, hn⟩
    induction n generalizing s with
    | zero =>
      obtain ⟨rfl, hover⟩ := endsAfter_zero.1 hn
      exact final_settled (settled_iff_runOver.2 hover)
    | succ n ih =>
      obtain ⟨hs, u, hu, hn⟩ := endsAfter_succ.1 hn
      exact final_next (settled_eq_false_iff.2 hs) hu (ih hn)

theorem EndsAfter.not_lt {s t u : State} {m n : Nat} (ht : EndsAfter m s t) (hu : EndsAfter n s u) : ¬ m < n := by
  obtain ⟨hrun, hover, -⟩ := ht
  obtain ⟨-, -, hfirst⟩ := hu
  exact fun h => hfirst m t h hrun hover

theorem final_unique {s t u : State} (ht : s.final t) (hu : s.final u) : t = u := by
  obtain ⟨m, ht⟩ := final_iff_endsAfter.1 ht
  obtain ⟨n, hu⟩ := final_iff_endsAfter.1 hu
  obtain rfl : m = n := Nat.le_antisymm (Nat.not_lt.1 (hu.not_lt ht)) (Nat.not_lt.1 (ht.not_lt hu))
  obtain ⟨hrun, -⟩ := ht
  obtain ⟨hrun', -⟩ := hu
  exact Host.Outcome.next.inj (hrun.symm.trans hrun')

/-- A run that has an end state meets no fault, neither before the end nor after it (log 19). -/
theorem run_next_of_final {s t : State} (h : s.final t) (n : Nat) : ∃ u, run n s = .next u := by
  induction h using final_induction generalizing n with
  | hend _ hover => exact runOver_run hover n
  | hnext s u _ _ _ hu ih =>
    cases n with
    | zero => exact ⟨s, rfl⟩
    | succ n =>
      rw [run_succ n hu]
      exact ih n

/-- Settles O48: the end state is the first one that meets the conditions, `final_iff_endsAfter`; there is no second
(`final_unique`), and a run that has one goes on without a fault (`run_next_of_final`). -/
theorem runEndsAtFirstSettledState : Obligations.RunEndsAtFirstSettledState := by
  refine ⟨fun s t => final_iff_endsAfter, fun s t u => final_unique, fun s n f hf t ht => ?_⟩
  obtain ⟨u, hu⟩ := run_next_of_final ht n
  cases hf.symm.trans hu

end Sys2Proof.Machine
end

section
/-! PROOFS. The decoder against the encoder (30_encoding.md R73, R75): a command is read from its own word alone. -/

namespace Sys2Proof

theorem decode_encode (i : Instr) : decode (encode i) = .ok i := by
  cases i <;> decide

/-- The defined opcodes are the words of the opcode map (30_encoding.md R73). -/
theorem exists_eq_encode {w : Word} (h : w.toNat < 8) : ∃ i, w = encode i := by
  obtain ⟨n, hn⟩ : ∃ n, w.toNat = n := ⟨_, rfl⟩
  obtain rfl : w = BitVec.ofNat 32 n := by rw [← hn, BitVec.ofNat_toNat, BitVec.setWidth_eq]
  rw [hn] at h
  match n with
  | 0 => exact ⟨.nop, rfl⟩
  | 1 => exact ⟨.step, rfl⟩
  | 2 => exact ⟨.hmac, rfl⟩
  | 3 => exact ⟨.trunc, rfl⟩
  | 4 => exact ⟨.encode, rfl⟩
  | 5 => exact ⟨.genTime, rfl⟩
  | 6 => exact ⟨.genNow, rfl⟩
  | 7 => exact ⟨.readClock, rfl⟩

/-- A word below 8 is a command's own, and every other word is one the decoder rejects (30_encoding.md R74, R75). -/
theorem decode_eq_ok_iff {w : Word} {i : Instr} : decode w = .ok i ↔ w = encode i := by
  constructor
  · intro h
    by_cases hw : w.toNat < 8
    · obtain ⟨j, rfl⟩ := exists_eq_encode hw
      rw [decode_encode] at h
      cases h
      rfl
    · obtain ⟨d, hd⟩ := exists_decode_eq_error (w := w) (by omega)
      cases hd.symm.trans h
  · rintro rfl
    exact decode_encode i

/-- Settles O2, by `decode_eq_ok_iff`; every command is well formed, so the premise shuts none out. -/
theorem decodeIffEncoded : Obligations.DecodeIffEncoded := fun _ _ _ => decode_eq_ok_iff

/-- Settles O1: eight of the words are those of the opcode map (`decode_encode`), and the last two fail on a reserved
OP and on a nonzero RSVD (`decode_reservedOpcode`, `decode_reservedBits`). -/
theorem commandWordsDecode : Obligations.CommandWordsDecode :=
  ⟨decode_encode .nop, decode_encode .step, decode_encode .hmac, decode_encode .trunc, decode_encode .encode,
    decode_encode .genTime, decode_encode .genNow, decode_encode .readClock,
    decode_reservedOpcode (by decide) (by decide), decode_reservedBits (by decide)⟩

end Sys2Proof
end

section
/-! PROOFS. What one step can do: what a command makes of the block when it completes (43_orchestration.md R165), and
what each agent's move does, whether it gives a next state or a fault (00_scope.md R7, R8). -/

namespace Sys2Proof.Machine

open Sys2Proof.Claims

/-! ### The state after a clock sample -/

@[simp] theorem sampled_cfg (s : State) : (sampled s).cfg = s.cfg := rfl
@[simp] theorem sampled_keyLen (s : State) : (sampled s).keyLen = s.keyLen := rfl
@[simp] theorem sampled_key (s : State) : (sampled s).key = s.key := rfl
@[simp] theorem sampled_schedule (s : State) : (sampled s).schedule = s.schedule := rfl
@[simp] theorem sampled_reads (s : State) : (sampled s).reads = s.reads := rfl

/-! ### A command that completes -/

/-- GEN_TIME within KEY_MAX succeeds, with the four sub-blocks' results (43_orchestration.md R161). -/
theorem exec_genTime_ok {s : State} (h : s.keyLen.toNat ≤ s.cfg.keyMax) :
    exec .genTime s = .next ((s.commit (codeResults s s.time.toNat)).retire s.status.succeeded) := by
  rw [exec, execGenTime, generate_ok h]
  exact finish_ok _ s

/-- Command `i` takes `s` to this state by its completion: one case for each row of 30_encoding.md R73 that succeeds,
and KEY_SETUP for the keyed commands (60_exceptions.md R203). -/
inductive Completes (s : State) : Instr → State → Prop where
  | nop : Completes s .nop (s.retire s.status.succeeded)
  | step : Completes s .step ((s.put (.step (timeStep s.time))).retire s.status.succeeded)
  | hmac (hk : s.keyLen.toNat ≤ s.cfg.keyMax) :
      Completes s .hmac ((s.put (.digest (digestOf s s.step.toNat))).retire s.status.succeeded)
  | trunc : Completes s .trunc ((s.commit (stageTrunc s.digest)).retire s.status.succeeded)
  | encode : Completes s .encode ((s.commit (stageCode s.trunc)).retire s.status.succeeded)
  | genTime (hk : s.keyLen.toNat ≤ s.cfg.keyMax) :
      Completes s .genTime ((s.commit (codeResults s s.time.toNat)).retire s.status.succeeded)
  | genNow (hv : (clockNow s).valid = true) (hk : s.keyLen.toNat ≤ s.cfg.keyMax) :
      Completes s .genNow
        (((sampled s).commit (.time (BitVec.ofNat 32 (nowSeconds s)) :: codeResults s (nowSeconds s))).retire
          s.status.succeeded)
  | readClock (hv : (clockNow s).valid = true) :
      Completes s .readClock
        (((sampled s).put (.time (BitVec.ofNat 32 (nowSeconds s)))).retire s.status.succeeded)
  | keySetup {i : Instr} (hi : i = .hmac ∨ i = .genTime) (hk : s.cfg.keyMax < s.keyLen.toNat) :
      Completes s i (s.failed .keySetup)
  | keySetupNow (hv : (clockNow s).valid = true) (hk : s.cfg.keyMax < s.keyLen.toNat) :
      Completes s .genNow ((sampled s).failed .keySetup)

/-- A command either completes or, sampling an invalid clock, is the clock fault. -/
theorem exec_cases (i : Instr) (s : State) :
    (∃ t, exec i s = .next t ∧ Completes s i t) ∨
    (exec i s = .fault (.clockError ((sampled s).failed .clock)) ∧ (i = .genNow ∨ i = .readClock) ∧
      (clockNow s).valid = false) := by
  cases i with
  | nop => exact .inl ⟨_, exec_nop s, .nop⟩
  | step => exact .inl ⟨_, exec_step s, .step⟩
  | trunc => exact .inl ⟨_, exec_trunc s, .trunc⟩
  | encode => exact .inl ⟨_, exec_encode s, .encode⟩
  | hmac =>
    rcases Nat.lt_or_ge s.cfg.keyMax s.keyLen.toNat with hk | hk
    · exact .inl ⟨_, exec_hmac_keySetup hk, .keySetup (.inl rfl) hk⟩
    · exact .inl ⟨_, exec_hmac_ok hk, .hmac hk⟩
  | genTime =>
    rcases Nat.lt_or_ge s.cfg.keyMax s.keyLen.toNat with hk | hk
    · exact .inl ⟨_, exec_genTime_keySetup hk, .keySetup (.inr rfl) hk⟩
    · exact .inl ⟨_, exec_genTime_ok hk, .genTime hk⟩
  | genNow =>
    cases hv : (clockNow s).valid with
    | false => exact .inr ⟨exec_genNow_invalid hv, .inl rfl, rfl⟩
    | true =>
      rcases Nat.lt_or_ge s.cfg.keyMax s.keyLen.toNat with hk | hk
      · exact .inl ⟨_, exec_genNow_keySetup hv hk, .keySetupNow hv hk⟩
      · exact .inl ⟨_, exec_genNow_ok hv hk, .genNow hv hk⟩
  | readClock =>
    cases hv : (clockNow s).valid with
    | false => exact .inr ⟨exec_readClock_invalid hv, .inr rfl, rfl⟩
    | true => exact .inl ⟨_, exec_readClock_valid hv, .readClock hv⟩

theorem exec_next {i : Instr} {s t : State} (h : exec i s = .next t) : Completes s i t := by
  rcases exec_cases i s with ⟨u, hu, hc⟩ | ⟨hf, -⟩
  · obtain rfl : u = t := Host.Outcome.next.inj (hu.symm.trans h)
    exact hc
  · cases hf.symm.trans h

/-! ### Whose move it is -/

/-- The move a step takes: the first of the schedule, or the sequencer's turn when none is left (log 1). -/
def State.nextMove (s : State) : Event := s.schedule.headD .sequencer

/-- The state once the next move has been taken off its schedule. -/
def State.moveOn (s : State) : State := { s with schedule := s.schedule.tail }

theorem step_eq_move (s : State) : step s = move s.nextMove s.moveOn := by
  cases hs : s.schedule with
  | nil =>
    have hmoved : s.moveOn = s := by rw [State.moveOn, hs, List.tail_nil, ← hs]
    rw [step_nil hs, hmoved, State.nextMove, hs]
    rfl
  | cons e es =>
    rw [step_cons hs, State.nextMove, State.moveOn, hs]
    rfl

theorem nextMove_cons {s : State} {e : Event} {es : List Event} (hs : s.schedule = e :: es) : s.nextMove = e := by
  rw [State.nextMove, hs]
  rfl

/-- Every move but the sequencer's is one that the schedule lists. -/
theorem head?_schedule {s : State} (h : s.nextMove ≠ .sequencer) : s.schedule.head? = some s.nextMove := by
  cases hs : s.schedule with
  | nil => exact absurd (by rw [State.nextMove, hs]; rfl) h
  | cons e es => rw [nextMove_cons hs]; rfl

/-! ### What a move does -/

/-- The move takes `s` to this state. -/
inductive Moves (s : State) : Event → State → Prop where
  | read {off : Offset} (ha : off.toNat % 4 = 0) :
      Moves s (.read off 4) { s with reads := s.reads ++ [s.readReg (regAt s.cfg off)] }
  | write {off : Offset} (w : Word) (ha : off.toNat % 4 = 0) :
      Moves s (.write off 4 w) (s.writeReg (regAt s.cfg off) w)
  /-- With no command in flight the sequencer leaves the block as it is (60_exceptions.md R220). -/
  | idle (hq : s.seq = .idle) : Moves s .sequencer s
  /-- A word that does not decode completes with BAD_CMD (60_exceptions.md R202). -/
  | badCmd {w : Word} (hq : s.seq = .inflight w) : Moves s .sequencer (s.failed .badCmd)
  | command {i : Instr} {t : State} (hq : s.seq = .inflight (encode i)) (hc : Completes s i t) : Moves s .sequencer t
  | reset : Moves s .reset s.takeReset

/-- The move stops the machine with this fault. -/
inductive Faults (s : State) : Event → Fault → Prop where
  | read {off : Offset} {width : Nat} (hbad : width ≠ 4 ∨ off.toNat % 4 ≠ 0) :
      Faults s (.read off width) (.busError off width)
  | write {off : Offset} {width : Nat} (w : Word) (hbad : width ≠ 4 ∨ off.toNat % 4 ≠ 0) :
      Faults s (.write off width w) (.busError off width)
  | clock {i : Instr} (hq : s.seq = .inflight (encode i)) (hi : i = .genNow ∨ i = .readClock)
      (hv : (clockNow s).valid = false) : Faults s .sequencer (.clockError ((sampled s).failed .clock))

theorem sequencerTurn_cases (s : State) :
    (∃ t, sequencerTurn s = .next t ∧ Moves s .sequencer t) ∨
    (∃ f, sequencerTurn s = .fault f ∧ Faults s .sequencer f) := by
  cases hq : s.seq with
  | idle => exact .inl ⟨s, sequencerTurn_idle hq, .idle hq⟩
  | inflight w =>
    rw [sequencerTurn_inflight hq]
    cases hd : decode w with
    | error d => exact .inl ⟨_, complete_error hd, .badCmd hq⟩
    | ok i =>
      obtain rfl := decode_eq_ok_iff.1 hd
      rw [complete_ok hd]
      rcases exec_cases i s with ⟨t, ht, hc⟩ | ⟨hf, hi, hv⟩
      · exact .inl ⟨t, ht, .command hq hc⟩
      · exact .inr ⟨_, hf, .clock hq hi hv⟩

theorem move_cases (e : Event) (s : State) :
    (∃ t, move e s = .next t ∧ Moves s e t) ∨ (∃ f, move e s = .fault f ∧ Faults s e f) := by
  cases e with
  | read off width =>
    by_cases h : width = 4 ∧ off.toNat % 4 = 0
    · obtain ⟨rfl, ha⟩ := h
      exact .inl ⟨_, hostRead_ok ha, .read ha⟩
    · have hbad : width ≠ 4 ∨ off.toNat % 4 ≠ 0 := by tauto
      exact .inr ⟨_, hostRead_fault hbad, .read hbad⟩
  | write off width w =>
    by_cases h : width = 4 ∧ off.toNat % 4 = 0
    · obtain ⟨rfl, ha⟩ := h
      exact .inl ⟨_, hostWrite_ok ha, .write w ha⟩
    · have hbad : width ≠ 4 ∨ off.toNat % 4 ≠ 0 := by tauto
      exact .inr ⟨_, hostWrite_fault hbad, .write w hbad⟩
  | sequencer => exact sequencerTurn_cases s
  | reset => exact .inl ⟨_, rfl, .reset⟩

theorem move_next {e : Event} {s t : State} (h : move e s = .next t) : Moves s e t := by
  rcases move_cases e s with ⟨u, hu, hm⟩ | ⟨f, hf, -⟩
  · obtain rfl : u = t := Host.Outcome.next.inj (hu.symm.trans h)
    exact hm
  · cases hf.symm.trans h

theorem move_fault {e : Event} {s : State} {f : Fault} (h : move e s = .fault f) : Faults s e f := by
  rcases move_cases e s with ⟨u, hu, -⟩ | ⟨g, hg, hm⟩
  · cases hu.symm.trans h
  · obtain rfl : g = f := Host.Outcome.fault.inj (hg.symm.trans h)
    exact hm

/-- What a step can make of the block, said once. -/
theorem step_next {s t : State} (h : step s = .next t) : Moves s.moveOn s.nextMove t :=
  move_next ((step_eq_move s).symm.trans h)

/-- How a step can fault, said once. -/
theorem step_fault {s : State} {f : Fault} (h : step s = .fault f) : Faults s.moveOn s.nextMove f :=
  move_fault ((step_eq_move s).symm.trans h)

/-- Settles O24: the faults of a move are `Faults`; a host access is a move that the schedule lists. -/
theorem onlySpecFaults : Obligations.OnlySpecFaults := by
  intro s f h
  have hf := step_fault h
  generalize he : s.nextMove = e at hf
  cases hf with
  | @read off width hbad =>
    have hs := head?_schedule (s := s) (by rw [he]; simp)
    exact .inl ⟨off, width, rfl, hbad, .inl (hs.trans (congrArg some he))⟩
  | @write off width w hbad =>
    have hs := head?_schedule (s := s) (by rw [he]; simp)
    exact .inl ⟨off, width, rfl, hbad, .inr ⟨w, hs.trans (congrArg some he)⟩⟩
  | @clock i hq hi hv =>
    refine .inr ⟨_, rfl, hv, ?_⟩
    rcases hi with rfl | rfl
    · exact .inl hq
    · exact .inr hq

end Sys2Proof.Machine
end

section
/-! PROOFS. The invariant of the block: STATUS against the sequencer (10_state.md R23, R34), the code registers
(42_encoder.md R142), the key array (10_state.md R27) and KEY_MAX (00_scope.md R6), each kept by every move; and the
FAULT latch (60_exceptions.md R211). -/

namespace Sys2Proof.Machine

open Sys2Proof.Claims

/-! ### STATUS and the sequencer -/

theorem StatusInv.cleared : StatusInv Status.cleared .idle := by constructor <;> decide

/-- Nothing in the invariant of STATUS rests on IGN. -/
theorem StatusInv.withIgn {st : Status} {q : Seq} (h : StatusInv st q) (b : Bool) :
    StatusInv { st with ign := b } q :=
  ⟨h.busyIffInflight, h.notBusyAndDone, h.errIffCode, h.codeRaisable, h.errNeedsDone, h.faultFrozen⟩

theorem StatusInv.accepted {st : Status} (hf : st.fault = false) (w : Word) :
    StatusInv st.accepted (.inflight w) := by
  constructor <;> simp [Status.accepted, hf]

theorem StatusInv.succeeded {st : Status} (hf : st.fault = false) : StatusInv st.succeeded .idle := by
  constructor <;> simp [Status.succeeded, hf]

/-- A failure latches FAULT only with ERRCODE = 3, which is what the latch needs (60_exceptions.md R211). -/
theorem StatusInv.failed {st : Status} (hf : st.fault = false) (e : CmdError) : StatusInv (st.failed e) .idle := by
  have hcode : e.code ≠ 0 ∧ e.code.toNat ≤ 3 := by cases e <;> decide
  obtain ⟨hne, hle⟩ := hcode
  refine ⟨by simp [Status.failed], by simp [Status.failed], iff_of_true rfl hne, hle, fun _ => rfl,
    fun h => ⟨rfl, ?_⟩⟩
  obtain rfl : e = .clock := by simpa [Status.failed_fault, hf] using h
  rfl

/-- In flight FAULT is 0 (60_exceptions.md R211). -/
theorem StatusInv.fault_inflight {st : Status} {q : Seq} (h : StatusInv st q) (hq : q ≠ .idle) : st.fault = false :=
  Bool.eq_false_iff.2 fun hf => hq (h.faultFrozen hf).1

/-! ### What a completion leaves -/

theorem Completes.cfg {s t : State} {i : Instr} (h : Completes s i t) : t.cfg = s.cfg := by
  cases h <;> simp

theorem Completes.key {s t : State} {i : Instr} (h : Completes s i t) : t.key = s.key := by
  cases h <;> simp

theorem Completes.schedule {s t : State} {i : Instr} (h : Completes s i t) : t.schedule = s.schedule := by
  cases h <;> simp

theorem Completes.seq {s t : State} {i : Instr} (h : Completes s i t) : t.seq = .idle := by
  cases h <;> rfl

/-- The two ends of a completion (43_orchestration.md R165); the only error that completes here is KEY_SETUP. -/
theorem Completes.status {s t : State} {i : Instr} (h : Completes s i t) :
    t.status = s.status.succeeded ∨ t.status = s.status.failed .keySetup := by
  cases h with
  | keySetup | keySetupNow => exact .inr rfl
  | nop | step | hmac | trunc | encode | genTime | genNow | readClock => exact .inl rfl

theorem Completes.fault {s t : State} {i : Instr} (h : Completes s i t) : t.status.fault = s.status.fault := by
  rcases h.status with hst | hst <;> simp [hst, Status.failed_fault]

/-- The code registers hold the code of `v` (42_encoder.md R141). -/
def HoldsCode (s : State) (v : BitVec 31) : Prop :=
  s.codeIdx = packIdx (codeDigits v) ∧ s.codeLo = packLo (codeDigits v) ∧ s.codeHi = packHi (codeDigits v)

/-- What the body of GEN_TIME stages for the code registers is the code of the truncated integer. -/
theorem holdsCode_codeResults (s u : State) (t : Nat) (st : Status) :
    HoldsCode ((u.commit (codeResults s t)).retire st) (truncValue (digestOf s (t / 30))) := by
  rw [HoldsCode, packIdx_codeDigits, packLo_codeDigits, packHi_codeDigits, truncValue_toNat]
  exact ⟨rfl, rfl, rfl⟩

/-- Every success of ENCODE, GEN_TIME and GEN_NOW commits the code of one value (42_encoder.md R142). -/
theorem Completes.holdsCode {s t : State} {i : Instr} (h : Completes s i t)
    (hi : i = .encode ∨ i = .genTime ∨ i = .genNow) (herr : t.status.err = false) : ∃ v, HoldsCode t v := by
  cases h with
  | encode => exact ⟨s.trunc, rfl, rfl, rfl⟩
  | genTime => exact ⟨_, holdsCode_codeResults s s s.time.toNat _⟩
  | genNow => exact ⟨_, holdsCode_codeResults s ((sampled s).put _) (nowSeconds s) _⟩
  | keySetup | keySetupNow => cases herr
  | nop | step | hmac | trunc | readClock => simp at hi

/-- A completion commits a whole code or leaves the three registers alone. -/
theorem Completes.code {s t : State} {i : Instr} (h : Completes s i t) :
    (t.codeIdx = s.codeIdx ∧ t.codeLo = s.codeLo ∧ t.codeHi = s.codeHi) ∨ ∃ v, HoldsCode t v := by
  cases h with
  | encode => exact .inr (Completes.encode.holdsCode (.inl rfl) rfl)
  | genTime hk => exact .inr ((Completes.genTime hk).holdsCode (.inr (.inl rfl)) rfl)
  | genNow hv hk => exact .inr ((Completes.genNow hv hk).holdsCode (.inr (.inr rfl)) rfl)
  | nop | step | hmac | trunc | readClock | keySetup | keySetupNow => exact .inl ⟨rfl, rfl, rfl⟩

theorem CodeInv.completes {s t : State} {i : Instr} (h : CodeInv s) (hc : Completes s i t) : CodeInv t := by
  rcases hc.code with ⟨hidx, hlo, hhi⟩ | hcode
  · unfold CodeInv
    rwa [hidx, hlo, hhi]
  · exact .inr hcode

/-! ### The moves -/

/-- A stored key word lies below KEY_MAX, for only an implemented one is in the map (20_memory.md R57). -/
theorem KeyInv.writeWord {s : State} (h : KeyInv s) {off : Offset} {k : Nat} (w : Word)
    (hr : regAt s.cfg off = .key k) : KeyInv { s with key := s.key.writeWord k w } := by
  obtain ⟨hwf, hzero⟩ := h
  obtain ⟨hk, -⟩ := regAtNat_key hr
  refine ⟨Memory.writeWord_wf hwf k w, fun i (hi : s.cfg.keyMax ≤ i) => ?_⟩
  rw [Memory.read_writeWord_lanes hwf, if_neg (by omega), hzero i hi]

theorem Inv.writeShape {s t : State} {off : Offset} {w : Word} (h : Inv s) (hw : WriteShape s (regAt s.cfg off) w t) :
    Inv t := by
  obtain ⟨hcfg, hstatus, hcode, hkey⟩ := h
  cases hw with
  | same => exact ⟨hcfg, hstatus, hcode, hkey⟩
  | ignored => exact ⟨hcfg, hstatus.withIgn _, hcode, hkey⟩
  | cleared => exact ⟨hcfg, hstatus.withIgn _, hcode, hkey⟩
  | accepted _ hf => exact ⟨hcfg, .accepted hf w, hcode, hkey⟩
  | key _ k hr => exact ⟨hcfg, hstatus, hcode, hkey.writeWord w hr⟩
  | time | keyLen | step | trunc | digest => exact ⟨hcfg, hstatus, hcode, hkey⟩

theorem inv_resetWith {c : Config} (h : c.wf = true) : Inv (State.resetWith c) :=
  ⟨h, .cleared, .inl ⟨rfl, rfl, rfl⟩, Memory.nil_wf, fun _ _ => rfl⟩

theorem Inv.moves {s t : State} {e : Event} (h : Inv s) (hm : Moves s e t) : Inv t := by
  cases hm with
  | read => exact ⟨h.cfg, h.status, h.code, h.key⟩
  | write w => exact h.writeShape (writeReg_shape s _ w)
  | idle => exact h
  | badCmd hq =>
    have hf := h.status.fault_inflight (by simp [hq])
    exact ⟨h.cfg, .failed hf .badCmd, h.code, h.key⟩
  | command hq hc =>
    have hf := h.status.fault_inflight (by simp [hq])
    have hstatus : StatusInv t.status t.seq := by
      rw [hc.seq]
      rcases hc.status with hst | hst <;> rw [hst]
      · exact .succeeded hf
      · exact .failed hf .keySetup
    have hkey : KeyInv t := by
      unfold KeyInv
      rw [hc.key, hc.cfg]
      exact h.key
    exact ⟨hc.cfg.symm ▸ h.cfg, hstatus, h.code.completes hc, hkey⟩
  | reset =>
    obtain ⟨-, hstatus, hcode, hkey⟩ := inv_resetWith h.cfg
    exact ⟨h.cfg, hstatus, hcode, hkey⟩

theorem Inv.moveOn {s : State} (h : Inv s) : Inv s.moveOn := ⟨h.cfg, h.status, h.code, h.key⟩

/-- Settles O38: taking the move off the schedule touches nothing the invariant speaks of, and each kind of move keeps
it, `Inv.moves`. -/
theorem stepKeepsInvariant : Obligations.StepKeepsInvariant := fun _ _ hinv h => hinv.moveOn.moves (step_next h)

/-- Settles O37, by `inv_resetWith`; 64 is a legal KEY_MAX. -/
theorem invariantAtReset : Obligations.InvariantAtReset := ⟨inv_resetWith (by decide), fun _ => inv_resetWith⟩

/-- The one clock fault there is: a clock command in flight, with the state that its failure leaves. -/
theorem step_clockError {s t : State} (h : step s = .fault (.clockError t)) :
    t = (sampled s.moveOn).failed .clock ∧ ∃ i, s.seq = .inflight (encode i) ∧ (i = .genNow ∨ i = .readClock) := by
  have hf := step_fault h
  generalize s.nextMove = e at hf
  cases hf with
  | clock hq hi => exact ⟨rfl, _, hq, hi⟩

/-- Settles O39: the state carried is `step_clockError`'s, whose STATUS meets the invariant by `StatusInv.failed`. -/
theorem clockFaultKeepsInvariant : Obligations.ClockFaultKeepsInvariant := by
  intro s t hinv h
  obtain ⟨rfl, i, hq, -⟩ := step_clockError h
  have hf : s.status.fault = false := hinv.status.fault_inflight (by simp [hq])
  exact ⟨⟨hinv.cfg, .failed hf .clock, hinv.code, hinv.key⟩, Bool.or_true _⟩

/-! ### KEY_MAX and the FAULT latch -/

theorem WriteShape.cfg {s t : State} {r : Reg} {w : Word} (h : WriteShape s r w t) : t.cfg = s.cfg := by
  cases h <;> rfl

theorem WriteShape.fault {s t : State} {r : Reg} {w : Word} (h : WriteShape s r w t) :
    t.status.fault = s.status.fault := by
  cases h <;> rfl

theorem Moves.cfg {s t : State} {e : Event} (h : Moves s e t) : t.cfg = s.cfg := by
  cases h with
  | write w => exact (writeReg_shape s _ w).cfg
  | command _ hc => exact hc.cfg
  | read | idle | badCmd | reset => rfl

/-- Every move but reset keeps FAULT where it gives a next state (60_exceptions.md R211). -/
theorem Moves.fault {s t : State} {e : Event} (h : Moves s e t) (he : e ≠ .reset) :
    t.status.fault = s.status.fault := by
  cases h with
  | write w => exact (writeReg_shape s _ w).fault
  | command _ hc => exact hc.fault
  | badCmd => exact Bool.or_false _
  | reset => exact absurd rfl he
  | read | idle => rfl

/-- Settles O40, by `Moves.cfg` and `step_clockError`; a sample and a failure leave KEY_MAX. -/
theorem parameterNeverChanges : Obligations.ParameterNeverChanges := by
  refine ⟨fun s t h => (step_next h).cfg, fun s t h => ?_⟩
  obtain ⟨rfl, -⟩ := step_clockError h
  rfl

/-- With FAULT = 1 a CMD write is dropped, whether a command is in flight or not (60_exceptions.md R211). -/
theorem step_writeCmd_of_fault {s : State} {w : Word} {rest : List Event} (hf : s.status.fault = true)
    (hs : s.schedule = .write 0x000 4 w :: rest) :
    step s = .next (State.ignoreWrite { s with schedule := rest }) := by
  rw [step_writeCmd hs, writeCmd_eq, if_neg (by simp [hf])]

/-- Settles O21: FAULT passes through every move but reset (`Moves.fault`), is latched by the fault that
`step_clockError` describes, and while it is 1 CMD writes are dropped (`step_writeCmd_of_fault`) and the invariant fixes
ERRCODE, and with it ERR. -/
theorem faultLatch : Obligations.FaultLatch := by
  refine ⟨fun s t h hreset => ?_, fun s t h => ?_, fun s t h hreset => ?_, fun s w rest hf hs => ?_,
    fun s t hinv _ h hf => ?_⟩
  · refine (step_next h).fault fun hmove => hreset ?_
    rw [head?_schedule (by simp [hmove]), hmove]
  · obtain ⟨rfl, i, hq, rfl | rfl⟩ := step_clockError h
    · exact ⟨Bool.or_true _, .inl hq⟩
    · exact ⟨Bool.or_true _, .inr hq⟩
  · obtain ⟨rest, hs⟩ := List.head?_eq_some_iff.1 hreset
    rw [step_cons hs] at h
    cases h
    rfl
  · exact step_writeCmd_of_fault hf hs
  · have hstatus : StatusInv t.status t.seq := (stepKeepsInvariant s t hinv h).status
    obtain ⟨-, hcode⟩ := hstatus.faultFrozen hf
    exact ⟨hstatus.errIffCode.2 (by simp [hcode]), hcode⟩

end Sys2Proof.Machine
end

section
/-! PROOFS. The commands: the divider (40_timestep.md R100), GEN_TIME (43_orchestration.md R161), what a command leaves
and what a failed one commits (R165, R166), the codes of base 26 (42_encoder.md R142), and the properties of the whole
code (43_orchestration.md R167). -/

namespace Sys2Proof.Machine

open Sys2Proof.Claims

/-! ### The divider -/

theorem timeStep_eq_iff {t1 t2 : Word} : timeStep t1 = timeStep t2 ↔ t1.toNat / 30 = t2.toNat / 30 := by
  rw [← BitVec.toNat_inj, timeStep_toNat, timeStep_toNat]

/-- Settles O8: the divider is floor division (`timeStep_toNat`), so the interval two timestamps share is that of their
quotient. -/
theorem timeStepDivider : Obligations.TimeStepDivider := by
  refine ⟨fun t => ⟨timeStep_toNat t, ?_⟩, fun t1 t2 => ?_⟩
  · have hlt := t.isLt
    rw [timeStep_toNat]
    omega
  · rw [timeStep_eq_iff]
    constructor
    · intro h
      exact ⟨t1.toNat / 30, by omega⟩
    · rintro ⟨k, hk⟩
      omega

/-! ### Completions -/

/-- Settles O14: the two completions are `exec_genTime_ok`, which commits `codeResults`, and `exec_genTime_keySetup`. -/
theorem genTimeResult : Obligations.GenTimeResult := by
  have hdecode : decode 0x00000005 = .ok .genTime := decode_encode .genTime
  refine ⟨hdecode, fun s => ⟨fun hk => ?_, fun hk => ?_⟩⟩
  · rw [exec_genTime_ok hk, Status.succeeded_eq_doneOk]
    rfl
  · rw [exec_genTime_keySetup hk, State.failed_of_ne_clock (by decide)]
    rfl

theorem Completes.keyLen {s t : State} {i : Instr} (h : Completes s i t) : t.keyLen = s.keyLen := by
  cases h <;> simp

theorem Completes.reads {s t : State} {i : Instr} (h : Completes s i t) : t.reads = s.reads := by
  cases h <;> simp

theorem Completes.ign {s t : State} {i : Instr} (h : Completes s i t) : t.status.ign = s.status.ign := by
  rcases h.status with hst | hst <;> simp [hst]

/-- Settles O16: in each column of 30_encoding.md R73 the commands that write it are those the clause leaves out, and
what no command writes is `Completes.cfg` and its kin. -/
theorem commandFrame : Obligations.CommandFrame := by
  intro i s t h
  have hc := exec_next h
  have hkey : ∀ a, t.key.read a = s.key.read a := fun a => by rw [hc.key]
  refine ⟨fun hnow hclock => ?_, fun hstep htime hnow => ?_, fun hhmac htime hnow => ?_, fun htrunc htime hnow => ?_,
    fun hencode htime hnow => ?_, hc.keyLen, hkey, hc.cfg, hc.ign, hc.fault, hc.schedule, hc.reads⟩
  · cases hc with
    | genNow | keySetupNow => exact absurd rfl hnow
    | readClock => exact absurd rfl hclock
    | genTime => simp [codeResults]
    | nop | step | hmac | trunc | encode | keySetup => exact ⟨rfl, rfl, rfl⟩
  · cases hc with
    | step => exact absurd rfl hstep
    | genTime => exact absurd rfl htime
    | genNow => exact absurd rfl hnow
    | nop | hmac | trunc | encode | readClock | keySetup | keySetupNow => rfl
  · cases hc with
    | hmac => exact absurd rfl hhmac
    | genTime => exact absurd rfl htime
    | genNow => exact absurd rfl hnow
    | nop | step | trunc | encode | readClock | keySetup | keySetupNow => rfl
  · cases hc with
    | trunc => exact absurd rfl htrunc
    | genTime => exact absurd rfl htime
    | genNow => exact absurd rfl hnow
    | nop | step | hmac | encode | readClock | keySetup | keySetupNow => exact ⟨rfl, rfl⟩
  · cases hc with
    | encode => exact absurd rfl hencode
    | genTime => exact absurd rfl htime
    | genNow => exact absurd rfl hnow
    | nop | step | hmac | trunc | readClock | keySetup | keySetupNow => exact ⟨rfl, rfl, rfl⟩

/-- Settles O17: a completion with ERR = 1 is KEY_SETUP, on the state itself or after one clock sample, and
`State.failed_of_ne_clock` says what that changes. -/
theorem failedCommandCommitsNothing : Obligations.FailedCommandCommitsNothing := by
  have hne : CmdError.keySetup ≠ .clock := by decide
  intro i s t h herr
  cases exec_next h with
  | keySetup => exact ⟨State.failed_of_ne_clock hne s, rfl⟩
  | keySetupNow => exact ⟨State.failed_of_ne_clock hne (sampled s), rfl⟩
  | nop | step | hmac | trunc | encode | genTime | genNow | readClock => cases herr

/-- Settles O19: both clock commands raise CLOCK on an invalid sample (`exec_readClock_invalid`,
`exec_genNow_invalid`), and `State.failed_clock` is the state carried. -/
theorem clockErrorFaults : Obligations.ClockErrorFaults := by
  intro s i hi hv
  rcases hi with rfl | rfl
  · rw [exec_readClock_invalid hv, State.failed_clock]
    rfl
  · rw [exec_genNow_invalid hv, State.failed_clock]
    rfl

/-! ### The codes of base 26 -/

/-- The number whose base-26 digits are the five indices, index 0 the lowest. -/
def idxValue (idx : Vector (Fin 26) 5) : Nat :=
  idx[0].val + 26 * idx[1].val + 26 ^ 2 * idx[2].val + 26 ^ 3 * idx[3].val + 26 ^ 4 * idx[4].val

theorem idxValue_lt (idx : Vector (Fin 26) 5) : idxValue idx < 26 ^ 5 := by
  unfold idxValue
  omega

/-- The five digits are `v` but for the quotient that the encoder discards (42_encoder.md R142). -/
theorem idxValue_codeDigits (v : BitVec 31) : idxValue (codeDigits v) = v.toNat % 26 ^ 5 := by
  simp only [idxValue, codeDigits_val, digitNat, Nat.mod_pow_succ, Nat.pow_zero, Nat.pow_one, Nat.div_one]

/-- Every five indices are a code: that of the number they write (42_encoder.md R142). -/
theorem codeDigits_idxValue (idx : Vector (Fin 26) 5) : codeDigits (BitVec.ofNat 31 (idxValue idx)) = idx := by
  have hlt := idxValue_lt idx
  refine Vector.ext fun i hi => Fin.ext ?_
  rw [codeDigits_val _ hi, BitVec.toNat_ofNat, Nat.mod_eq_of_lt (by omega), digitNat, idxValue]
  interval_cases i <;> omega

theorem codeDigits_eq_iff {v v' : BitVec 31} :
    codeDigits v = codeDigits v' ↔ v.toNat % 26 ^ 5 = v'.toNat % 26 ^ 5 := by
  rw [← idxValue_codeDigits, ← idxValue_codeDigits]
  exact ⟨congrArg idxValue, fun h => by rw [← codeDigits_idxValue (codeDigits v), h, codeDigits_idxValue]⟩

theorem alpha_mem_symbols (i : Fin 26) : (alpha i).toNat ∈ symbols.map Char.toNat := by
  revert i
  decide

/-- Settles O41: `codeDigits_val` reads the digits, `codeDigits_eq_iff` says what a code depends on, and the one value
below 26^5 with given indices is `idxValue` of them. -/
theorem encoderProperties : Obligations.EncoderProperties := by
  refine ⟨fun v i => codeDigits_val v i.isLt, fun v v' => codeDigits_eq_iff, fun v => ?_, fun idx => ?_,
    fun i => ⟨alpha_toNat i, alpha_mem_symbols i⟩⟩
  · have hlt := v.isLt
    omega
  · have hlt := idxValue_lt idx
    have hval : (BitVec.ofNat 31 (idxValue idx)).toNat = idxValue idx := by
      rw [BitVec.toNat_ofNat, Nat.mod_eq_of_lt (by omega)]
    refine ⟨BitVec.ofNat 31 (idxValue idx), ⟨by omega, codeDigits_idxValue idx⟩, fun v' hv' hidx => ?_⟩
    rw [← hidx, idxValue_codeDigits, Nat.mod_eq_of_lt hv', BitVec.ofNat_toNat, BitVec.setWidth_eq]

/-! ### The whole code -/

theorem keyOf_congr {m m' : Memory} {n : Nat} (h : ∀ i, i < n → m.read i = m'.read i) : keyOf m n = keyOf m' n :=
  List.map_congr_left fun i hi => h i (List.mem_range.1 hi)

/-- The results rest on the time step, KEYLEN and the key bytes below it alone (43_orchestration.md R167). -/
theorem codeResults_congr {s s' : State} {t t' : Nat} (hlen : s.keyLen = s'.keyLen)
    (hkey : ∀ i, i < s.keyLen.toNat → s.key.read i = s'.key.read i) (ht : t / 30 = t' / 30) :
    codeResults s t = codeResults s' t' := by
  have hdigest : digestOf s (t / 30) = digestOf s' (t / 30) := by
    rw [digestOf, digestOf, keyOf_congr hkey, hlen]
  simp only [codeResults, valueOf, hdigest, ← ht]

/-- A word put together from four bytes has them as its lanes (20_memory.md R54). -/
theorem laneOf_ofLanes (b : Vector Byte 4) {j : Nat} (hj : j < 4) :
    laneOf (ofLanes b[0] b[1] b[2] b[3]) j = b[j] := by
  have h0 := b[0].isLt
  have h1 := b[1].isLt
  have h2 := b[2].isLt
  have h3 := b[3].isLt
  rw [ofLanes_eq_ofNat, laneOf]
  apply BitVec.eq_of_toNat_eq
  rw [BitVec.toNat_ofNat, BitVec.toNat_ofNat]
  interval_cases j <;> omega

/-- Each byte of CODE_LO is a symbol (42_encoder.md R141). -/
theorem packLo_byte_mem_symbols (idx : Vector (Fin 26) 5) {j : Nat} (hj : j < 4) :
    (packLo idx).toNat / 2 ^ (8 * j) % 256 ∈ symbols.map Char.toNat := by
  have hbyte : (laneOf (packLo idx) j).toNat = (packLo idx).toNat / 2 ^ (8 * j) % 256 := BitVec.toNat_ofNat _ _
  have hlane : laneOf (packLo idx) j = alpha idx[j] := by
    refine (laneOf_ofLanes #v[alpha idx[0], alpha idx[1], alpha idx[2], alpha idx[3]] hj).trans ?_
    interval_cases j <;> rfl
  rw [← hbyte, hlane]
  exact alpha_mem_symbols _

/-- Settles O43: equal results are `codeResults_congr`, the two sides of a boundary have different quotients
(`timeStep_eq_iff`), and the code that a success commits (`Completes.holdsCode`) is made of symbols. -/
theorem totpProperties : Obligations.TotpProperties := by
  refine ⟨fun s s' t t' hcfg hlen hkey htime hk h h' => ?_, fun s s' t t' k hk0 htime htime' hk hk' h h' heq => ?_,
    fun s t i hi h herr => ?_⟩
  · rw [exec_genTime_ok hk, codeResults_congr hlen hkey htime] at h
    rw [exec_genTime_ok (by rwa [← hcfg, ← hlen])] at h'
    cases h
    cases h'
    exact ⟨rfl, rfl, rfl, rfl, rfl, rfl, rfl⟩
  · rw [exec_genTime_ok hk] at h
    rw [exec_genTime_ok hk'] at h'
    cases h
    cases h'
    have hstep : BitVec.ofNat 32 (s.time.toNat / 30) = BitVec.ofNat 32 (s'.time.toNat / 30) := heq
    rw [← timeStep_eq_ofNat, ← timeStep_eq_ofNat, timeStep_eq_iff] at hstep
    omega
  · obtain ⟨v, -, hlo, hhi⟩ := (exec_next h).holdsCode hi herr
    rw [hlo, hhi]
    exact ⟨fun j hj => packLo_byte_mem_symbols _ hj, alpha_mem_symbols _⟩

end Sys2Proof.Machine
end

section
/-! PROOFS. The moves of the agents: reset (70_reset_and_hazards.md R240), the sequencer's turn (43_orchestration.md
R165), the hardware past a clock fault (60_exceptions.md R211), and the host's accesses, idle and in flight
(20_memory.md R54 to R58, 70_reset_and_hazards.md R243 to R248). -/

namespace Sys2Proof.Machine

open Sys2Proof.Claims

/-! ### Reset and the sequencer -/

theorem step_reset {s : State} {rest : List Event} (hs : s.schedule = .reset :: rest) :
    step s = .next (State.takeReset { s with schedule := rest }) :=
  step_cons hs

/-- Settles O36: the step is `step_reset`, and taking reset is the state after reset with the fields of the host and
the environment kept. -/
theorem resetFromAnyState : Obligations.ResetFromAnyState := fun _ _ hs => step_reset hs

/-- Settles O3: the step is the sequencer's turn (`step_sequencerNext`), which completes the word in flight with the
meaning of its command. -/
theorem stepRunsDecodedCommand : Obligations.StepRunsDecodedCommand := by
  intro s w i rest hq hd hnext
  rw [step_sequencerNext hnext, sequencerTurn_inflight (s := { s with schedule := rest }) hq, complete_ok hd]

/-! ### The hardware past a clock fault -/

theorem hardwareRun_succ (n : Nat) (s : State) : hardwareRun (n + 1) s = hardwareRun n (hardwareStep s) := rfl

theorem hardwareStep_next {s t : State} (h : step s = .next t) : hardwareStep s = t := by
  rw [hardwareStep, h]

theorem hardwareStep_clockError {s t : State} (h : step s = .fault (.clockError t)) : hardwareStep s = t := by
  rw [hardwareStep, h]

/-- STATUS after a clock fault and a dropped write: BUSY = 0, DONE, ERR, IGN and FAULT set, ERRCODE = 3. -/
theorem Status.toWord_failed_clock_ignored (st : Status) : (st.failed .clock).ignored.toWord = 0x0000031E := by
  rw [Status.toWord_eq_ofNat]
  simp [statusNat, Status.failed, Status.ignored, CmdError.code]

/-- READ_CLOCK in flight on an invalid sample is the clock fault (60_exceptions.md R204). -/
theorem step_readClock_invalid {s : State} {rest : List Event} (hs : s.schedule = .sequencer :: rest)
    (hq : s.seq = .inflight (encode .readClock)) (hv : (clockNow s).valid = false) :
    step s = .fault (.clockError ((sampled { s with schedule := rest }).failed .clock)) :=
  (step_exec hs hq (decode_encode .readClock)).trans (exec_readClock_invalid (s := { s with schedule := rest }) hv)

/-- With FAULT = 1 the hardware drops a CMD write, still answers reads of STATUS, and takes reset (60_exceptions.md
R211; 95_test_vectors.md X9). -/
theorem hardwareRun_faulted {s : State} (hf : s.status.fault = true)
    (hs : s.schedule = [.write 0x000 4 0x00000000, .read 0x004 4, .reset, .read 0x004 4]) :
    hardwareRun 4 s = { s.takeReset with
      schedule := [], reads := s.reads ++ [s.status.ignored.toWord] ++ [Status.cleared.toWord] } := by
  rw [hardwareRun_succ, hardwareStep_next (step_writeCmd_of_fault hf hs), hardwareRun_succ,
    hardwareStep_next (step_read rfl rfl), hardwareRun_succ, hardwareStep_next (step_reset rfl), hardwareRun_succ,
    hardwareStep_next (step_read rfl rfl)]
  rfl

/-- Settles O22: the first step is the clock fault, and from the state it carries the hardware goes on as
`hardwareRun_faulted` says. -/
theorem hardwareAfterClockFault : Obligations.HardwareAfterClockFault := by
  intro s hq hv hs
  rw [hardwareRun_succ, hardwareStep_clockError (step_readClock_invalid hs hq hv),
    hardwareRun_faulted (Bool.or_true _) rfl, State.failed_status, Status.toWord_failed_clock_ignored,
    Status.toWord_cleared]
  exact ⟨List.append_assoc _ _ _, rfl, rfl⟩

/-! ### Accesses -/

theorem WriteShape.schedule {s t : State} {r : Reg} {w : Word} (h : WriteShape s r w t) :
    t.schedule = s.schedule := by
  cases h <;> rfl

theorem WriteShape.reads {s t : State} {r : Reg} {w : Word} (h : WriteShape s r w t) : t.reads = s.reads := by
  cases h <;> rfl

/-- Settles O33: a read appends to the words read alone; a write has one of the shapes of `writeReg_shape`, none of
which stores to a read-only register, and those that store at all are of an idle block. -/
theorem accessesLeaveResults : Obligations.AccessesLeaveResults := by
  intro s t e rest he hs h
  have hm := step_next h
  rw [nextMove_cons hs] at hm
  cases hm with
  | read => exact ⟨rfl, rfl, rfl, rfl, fun _ => ⟨rfl, rfl, rfl, rfl, rfl, rfl, fun _ => rfl⟩⟩
  | @write off w =>
    have hshape := writeReg_shape s.moveOn (regAt s.moveOn.cfg off) w
    generalize s.moveOn.writeReg (regAt s.moveOn.cfg off) w = t at hshape ⊢
    cases hshape with
    | same | ignored | cleared => exact ⟨rfl, rfl, rfl, rfl, fun _ => ⟨rfl, rfl, rfl, rfl, rfl, rfl, fun _ => rfl⟩⟩
    | accepted hq | time hq | keyLen hq | step hq | trunc hq | digest hq | key hq =>
      exact ⟨rfl, rfl, rfl, rfl, fun hne => absurd hq hne⟩
  | idle | badCmd | command | reset => simp at he

/-! ### A word written and read back -/

/-- A word is its four lanes put together again (20_memory.md R54). -/
theorem ofLanes_laneOf (w : Word) : ofLanes (laneOf w 0) (laneOf w 1) (laneOf w 2) (laneOf w 3) = w := by
  have hlt := w.isLt
  rw [ofLanes_eq_ofNat]
  apply BitVec.eq_of_toNat_eq
  simp only [laneOf, BitVec.toNat_ofNat]
  omega

theorem digestWord_digestSetWord (d : Digest) (k : Fin 5) (w : Word) : digestWord (digestSetWord d k w) k = w := by
  have hlane : ∀ j (hj : j < 4), (digestSetWord d k w)[4 * k.val + j] = laneOf w j := fun j hj => by
    rw [getElem_digestSetWord, if_pos (by omega), Nat.mul_add_mod, Nat.mod_eq_of_lt hj]
  have h0 : (digestSetWord d k w)[4 * k.val] = laneOf w 0 := hlane 0 (by omega)
  rw [digestWord, h0, hlane 1 (by omega), hlane 2 (by omega), hlane 3 (by omega), ofLanes_laneOf]

/-- What an idle block reads back from an RW register (20_memory.md R56, R57), by the offset at which it lies. -/
theorem LiesAt.readReg_writeReg {s : State} {n : Nat} {r : Reg} (h : LiesAt s.cfg n r) (hq : s.seq = .idle) (w : Word) :
    (n = 0x008 ∨ n = 0x00C ∨ n = 0x010 ∨ (0x040 ≤ n ∧ n ≤ 0x050) → (s.writeReg r w).readReg r = w) ∧
    (n = 0x014 → (s.writeReg r w).readReg r = BitVec.ofNat 32 (w.toNat % 2 ^ 31)) ∧
    (0x400 ≤ n → n ≤ 0x7FC → (s.writeReg r w).readReg r = 0) := by
  cases h with
  | time | keyLen | step =>
    refine ⟨fun _ => ?_, by omega, by omega⟩
    rw [State.writeReg, writeInput_idle hq]
    rfl
  | trunc =>
    refine ⟨by omega, fun _ => ?_, by omega⟩
    rw [State.writeReg, writeInput_idle hq, setWidth_valueMask]
    exact BitVec.eq_of_toNat_eq (by simp [State.readReg])
  | digest k =>
    refine ⟨fun _ => ?_, by omega, by omega⟩
    rw [State.writeReg, writeInput_idle hq]
    exact digestWord_digestSetWord s.digest k w
  | key | reserved => exact ⟨by omega, by omega, fun _ _ => rfl⟩
  | cmd | status | offset | codeIdx | codeLo | codeHi => exact ⟨by omega, by omega, by omega⟩

/-- Settles O29: the two steps are `step_write` and `step_read`, and `LiesAt.readReg_writeReg` says which word is
read. -/
theorem writtenWordReadBack : Obligations.WrittenWordReadBack := by
  intro s off w rest hq ha hs
  have hwritten := step_write ha hs
  have hshape := writeReg_shape { s with schedule := .read off 4 :: rest } (regAt s.cfg off) w
  have hread := step_read ha hshape.schedule
  have hmap := liesAt_regAt s.cfg ha
  obtain ⟨hword, htrunc, hkey⟩ :=
    hmap.readReg_writeReg (s := { s with schedule := .read off 4 :: rest }) hq w
  rw [hshape.cfg, hshape.reads] at hread
  refine ⟨_, (run_succ 1 hwritten).trans (run_succ 0 hread), rfl, fun h => ?_, fun h => ?_, fun h h' => ?_⟩
  · exact congrArg (s.reads ++ [·]) (hword h)
  · exact congrArg (s.reads ++ [·]) (htrunc h)
  · exact congrArg (s.reads ++ [·]) (hkey h h')

/-! ### A command in flight -/

theorem exists_inflight {q : Seq} (h : q ≠ .idle) : ∃ c, q = .inflight c := by
  cases q with
  | idle => exact absurd rfl h
  | inflight c => exact ⟨c, rfl⟩

/-- In flight a write to CMD or to an input register is dropped (20_memory.md R57). -/
theorem LiesAt.writeReg_inflight {s : State} {n : Nat} {r : Reg} {c : Word} (h : LiesAt s.cfg n r)
    (hc : s.cfg.wf = true) (hq : s.seq = .inflight c) (hn : n = 0x000 ∨ inputOffset s.cfg n) (w : Word) :
    s.writeReg r w = s.ignoreWrite := by
  obtain ⟨h4, -, hmax⟩ := config_wf_iff.1 hc
  cases h with
  | cmd => exact writeCmd_inflight hq
  | time | keyLen | step | trunc | digest | key => exact writeInput_inflight hq
  | status | offset | codeIdx | codeLo | codeHi | reserved => omega

/-- Settles O30: the write is one to a register of the map, and `LiesAt.writeReg_inflight` drops it. -/
theorem writeInFlightDropped : Obligations.WriteInFlightDropped := by
  intro s off w rest hc hq ha hn hs
  obtain ⟨c, hinflight⟩ := exists_inflight hq
  have hmap := liesAt_regAt s.cfg ha
  rw [step_write ha hs, hmap.writeReg_inflight (s := { s with schedule := rest }) hc hinflight hn]
  rfl

/-- In flight no write to the window changes more than IGN (70_reset_and_hazards.md R243). -/
theorem WriteShape.inflight {s t : State} {r : Reg} {w c : Word} (h : WriteShape s r w t) (hq : s.seq = .inflight c) :
    ∃ b, t = { s with status := { s.status with ign := b } } := by
  cases h with
  | same => exact ⟨s.status.ign, rfl⟩
  | ignored => exact ⟨true, rfl⟩
  | cleared => exact ⟨_, rfl⟩
  | accepted hidle | time hidle | keyLen hidle | step hidle | trunc hidle | digest hidle | key hidle =>
    cases hq.symm.trans hidle

theorem step_goodAccess {s : State} {e : Event} {es : List Event} {c : Word} (he : goodAccess e)
    (hq : s.seq = .inflight c) (hs : s.schedule = e :: es) :
    ∃ (b : Bool) (rs : List Word), step s =
      .next { s with schedule := es, status := { s.status with ign := b }, reads := s.reads ++ rs } := by
  obtain ⟨off, rfl, ha⟩ | ⟨off, w, rfl, ha⟩ := he
  · exact ⟨s.status.ign, _, step_read ha hs⟩
  · obtain ⟨b, hb⟩ := (writeReg_shape { s with schedule := es } (regAt s.cfg off) w).inflight hq
    exact ⟨b, [], by rw [step_write ha hs, hb, List.append_nil]⟩

/-- Settles O31, by induction on the accesses: each of them is `step_goodAccess`, which leaves the command in
flight. -/
theorem inputsStableInFlight : Obligations.InputsStableInFlight := by
  intro es rest
  induction es with
  | nil =>
    rintro s w - hq rfl
    exact ⟨s.status.ign, [], by rw [List.append_nil]; rfl⟩
  | cons e es ih =>
    intro s w hgood hq hs
    obtain ⟨he, hes⟩ := List.forall_mem_cons.1 hgood
    obtain ⟨b, rs, hstep⟩ := step_goodAccess he hq hs
    obtain ⟨b', rs', hrun⟩ := ih { s with schedule := es ++ rest, status := { s.status with ign := b },
                                          reads := s.reads ++ rs } w hes hq rfl
    refine ⟨b', rs ++ rs', ?_⟩
    rw [List.length_cons, run_succ _ hstep, ← List.append_assoc]
    exact hrun

theorem run_add {m : Nat} {s t : State} (h : run m s = .next t) (n : Nat) : run (m + n) s = run n t := by
  induction m generalizing s with
  | zero => rw [run_zero_eq_next.1 h, Nat.zero_add]
  | succ m ih =>
    obtain ⟨u, hu, hrun⟩ := run_succ_eq_next.1 h
    rw [Nat.add_right_comm, run_succ _ hu, ih hrun]

theorem run_fault {s : State} {f : Fault} (n : Nat) (h : step s = .fault f) : run (n + 1) s = .fault f := by
  rw [run, h]

/-- However a command in flight completes, the block is idle with BUSY = 0 and DONE = 1 (43_orchestration.md R165). -/
theorem Moves.completed {s t : State} {c : Word} (h : Moves s .sequencer t) (hq : s.seq = .inflight c) :
    t.seq = .idle ∧ t.status.busy = false ∧ t.status.done = true := by
  cases h with
  | idle hidle => cases hq.symm.trans hidle
  | badCmd => exact ⟨rfl, rfl, rfl⟩
  | command _ hc =>
    refine ⟨hc.seq, ?_⟩
    rcases hc.status with hst | hst <;> rw [hst] <;> exact ⟨rfl, rfl⟩

/-- Settles O32: the accesses leave the command in flight (`inputsStableInFlight`), and the sequencer's turn after them
completes it (`Moves.completed`) or is the clock fault. -/
theorem commandInFlightCompletes : Obligations.CommandInFlightCompletes := by
  intro s w hgood hq
  obtain ⟨b, rs, hrun⟩ := inputsStableInFlight s.schedule [] s w hgood hq (List.append_nil _).symm
  rw [run_add hrun]
  generalize hu : ({ s with schedule := [], status := _, reads := _ } : State) = u
  have hturn : step u = sequencerTurn u := step_nil (by rw [← hu])
  have hinflight : u.seq = .inflight w := by rw [← hu, hq]
  rcases sequencerTurn_cases u with ⟨t, ht, hm⟩ | ⟨f, hf, hm⟩
  · exact ⟨t, .inl (run_succ 0 (hturn.trans ht)), hm.completed hinflight⟩
  · cases hm with
    | clock => exact ⟨_, .inr (run_fault 0 (hturn.trans hf)), rfl, rfl, rfl⟩

/-! ### The key behind the window -/

/-- No read of the window depends on the key (10_state.md R27). -/
theorem State.readReg_withKey (s : State) (k : Memory) (r : Reg) :
    State.readReg { s with key := k } r = s.readReg r := by
  cases r <;> rfl

theorem writeInput_withKey (s s' : State) (k k' : Memory) :
    ∃ m, State.writeInput { s with key := k } { s' with key := k' } = { s.writeInput s' with key := m } := by
  by_cases hq : s.seq = .idle
  · exact ⟨k', by rw [writeInput_idle hq, writeInput_idle (s := { s with key := k }) hq]⟩
  · obtain ⟨c, hc⟩ := exists_inflight hq
    exact ⟨k, by rw [writeInput_inflight hc, writeInput_inflight (s := { s with key := k }) hc]; rfl⟩

/-- What a write makes of everything but the key does not depend on the key. -/
theorem State.writeReg_withKey (s : State) (k : Memory) (r : Reg) (w : Word) :
    ∃ m, State.writeReg { s with key := k } r w = { s.writeReg r w with key := m } := by
  cases r with
  | cmd =>
    refine ⟨k, ?_⟩
    simp only [State.writeReg, writeCmd_eq]
    split <;> rfl
  | time => exact writeInput_withKey s { s with time := w } k k
  | keyLen => exact writeInput_withKey s { s with keyLen := w } k k
  | step => exact writeInput_withKey s { s with step := w } k k
  | trunc => exact writeInput_withKey s { s with trunc := _ } k k
  | digest j => exact writeInput_withKey s { s with digest := _ } k k
  | key j => exact writeInput_withKey s { s with key := s.key.writeWord j w } k (k.writeWord j w)
  | status | offset | codeIdx | codeLo | codeHi | reserved => exact ⟨k, rfl⟩

theorem move_withKey {e : Event} {s t : State} (k : Memory) (he : e ≠ .sequencer) (h : move e s = .next t) :
    ∃ m, move e { s with key := k } = .next { t with key := m } := by
  cases move_next h with
  | @read off ha => exact ⟨k, (hostRead_ok ha).trans (by rw [State.readReg_withKey])⟩
  | @write off w ha =>
    obtain ⟨m, hm⟩ := State.writeReg_withKey s k (regAt s.cfg off) w
    exact ⟨m, (hostWrite_ok ha).trans (congrArg _ hm)⟩
  | reset => exact ⟨[], rfl⟩
  | idle | badCmd | command => exact absurd rfl he

theorem move_fault_withKey {e : Event} {s : State} {f : Fault} (k : Memory) (he : e ≠ .sequencer)
    (h : move e s = .fault f) : move e { s with key := k } = .fault f := by
  cases move_fault h with
  | read hbad => exact hostRead_fault hbad
  | write w hbad => exact hostWrite_fault hbad
  | clock => exact absurd rfl he

/-- Settles O34, by induction on the number of steps: each of them is a move that is not the sequencer's, and
`move_withKey` and `move_fault_withKey` say that such a move does alike whatever the key is. -/
theorem keyIsUnreadable : Obligations.KeyIsUnreadable := by
  intro n
  induction n with
  | zero =>
    intro s k _ _
    exact ⟨fun t h => ⟨k, by cases h; rfl⟩, nofun⟩
  | succ n ih =>
    intro s k hn hsched
    obtain ⟨e, es, hs⟩ := List.exists_cons_of_length_pos (Nat.lt_of_lt_of_le n.succ_pos hn)
    have he : e ≠ .sequencer := hsched e (by simp [hs])
    have hmove := step_cons hs
    have hmove' : step { s with key := k } = move e { s with schedule := es, key := k } := step_cons hs
    cases hstep : step s with
    | next u =>
      obtain ⟨m, hm⟩ := move_withKey k he (hmove.symm.trans hstep)
      have hu : u.schedule = es := by rw [step_schedule hstep, hs, List.tail_cons]
      rw [run_succ n hstep, run_succ n (hmove'.trans hm)]
      refine ih u m ?_ fun e he => hsched e ?_
      · rw [hs, List.length_cons] at hn
        rw [hu]
        omega
      · rw [hs, ← hu]
        exact List.mem_cons_of_mem _ he
    | fault g =>
      have hg := move_fault_withKey k he (hmove.symm.trans hstep)
      rw [run_fault n hstep, run_fault n (hmove'.trans hg)]
      exact ⟨nofun, fun f h => h⟩
    | refused x => exact absurd hstep (noStepRefused s x)

end Sys2Proof.Machine
end

section
/-! PROOFS. The lines of a host script (30_encoding.md R78) as runs of the block: `run MNEMONIC` with its polls, and
`run GEN_TIME` against the lines of the four sub-blocks (43_orchestration.md R163). -/

namespace Sys2Proof.Machine

open Sys2Proof.Claims

/-! ### The line `run MNEMONIC` -/

/-- Reads of STATUS leave the block, and each returns the same word (20_memory.md R62). -/
theorem run_polls {p : Nat} {s : State} {es : List Event} (hs : s.schedule = List.replicate p (busRead 0x004) ++ es) :
    run p s = .next { s with schedule := es, reads := s.reads ++ List.replicate p s.status.toWord } := by
  induction p generalizing s with
  | zero =>
    obtain rfl : s.schedule = es := hs
    rw [List.replicate_zero, List.append_nil]
    rfl
  | succ p ih =>
    have hread : step s = .next { s with schedule := List.replicate p (busRead 0x004) ++ es,
                                         reads := s.reads ++ [s.status.toWord] } :=
      step_read (off := 0x004) rfl hs
    rw [run_succ p hread, ih rfl, List.replicate_succ, List.append_assoc]
    rfl

/-- The block when the sequencer completes the command of the line `run i`: accepted, polled `p` times, and with the
poll that sees the completion still to come. -/
def State.polled (s : State) (i : Instr) (p : Nat) (rest : List Event) : State :=
  { s.accept (encode i) with
    schedule := busRead 0x004 :: rest
    reads := s.reads ++ List.replicate p s.status.accepted.toWord }

/-- The line `run i`, whenever the command it runs gives a next state (30_encoding.md R78). -/
theorem run_runLine {s t : State} {i : Instr} {p : Nat} {rest : List Event} (hq : s.seq = .idle)
    (hf : s.status.fault = false) (hs : s.schedule = (ScriptLine.run i p).events ++ rest)
    (ht : exec i (s.polled i p rest) = .next t) :
    run (p + 3) s = .next { t with schedule := rest, reads := t.reads ++ [t.status.toWord] } := by
  have haccept : step s = .next (State.accept { s with schedule := waitEvents p ++ rest } (encode i)) :=
    step_acceptCmd hs hq hf
  have hpolls := run_polls (p := p) (s := State.accept { s with schedule := waitEvents p ++ rest } (encode i))
    (es := [.sequencer, busRead 0x004] ++ rest) (List.append_assoc _ _ _)
  have hcomplete := (step_exec (s := { s.polled i p rest with schedule := .sequencer :: busRead 0x004 :: rest }) rfl rfl
    (decode_encode i)).trans ht
  have hsched : t.schedule = busRead 0x004 :: rest := (exec_next ht).schedule
  rw [run_succ (p + 2) haccept, run_add hpolls 2]
  exact (run_succ 1 hcomplete).trans (run_succ 0 (step_read (off := 0x004) rfl hsched))

/-- Settles O44: `run_runLine`, with the word that a busy poll reads in arithmetic. -/
theorem runLineCompletes : Obligations.RunLineCompletes := by
  intro s t i p rest hq hf hs ht
  have hbusy : s.status.accepted.toWord = BitVec.ofNat 32 (1 + 8 * s.status.ign.toNat) := by
    rw [Status.toWord_eq_ofNat]
    simp [statusNat, Status.accepted, hf]
  have haccept : s.accept (encode i) = { s with
      seq := .inflight (encode i), status := ⟨true, false, false, s.status.ign, false, 0⟩ } := by
    rw [State.accept, Status.accepted, hf]
  have hpolled : exec i (s.polled i p rest) = .next t := by
    rw [State.polled, haccept, hbusy]
    exact ht
  rw [run_runLine hq hf hs hpolled, Status.toWord_eq_ofNat]

/-! ### What a line commits -/

/-- Putting a result does not touch the fields that a command's life goes through. -/
theorem State.commit_withControl (s : State) (ws : List Staged) (st : Status) (q : Seq) (es : List Event)
    (rs : List Word) :
    State.commit { s with status := st, seq := q, schedule := es, reads := rs } ws =
      { s.commit ws with status := st, seq := q, schedule := es, reads := rs } := by
  induction ws generalizing s with
  | nil => rfl
  | cons x ws ih =>
    rw [State.commit_cons, State.commit_cons, ← ih]
    cases x <;> rfl

/-- The block after lines whose commands all succeeded: their results committed, STATUS as a success leaves it, the
moves to come and the words read. -/
def State.afterLines (s : State) (ws : List Staged) (rest : List Event) (rs : List Word) : State :=
  { s.commit ws with status := doneOk s.status, seq := .idle, schedule := rest, reads := rs }

/-- A line whose command succeeds commits its results and leaves the block idle (43_orchestration.md R165). -/
theorem run_runLine_ok {s : State} {i : Instr} {p : Nat} {rest : List Event} {ws : List Staged} (hq : s.seq = .idle)
    (hf : s.status.fault = false) (hs : s.schedule = (ScriptLine.run i p).events ++ rest)
    (hexec : exec i (s.polled i p rest) = finish (.ok ws) (s.polled i p rest)) :
    ∃ rs, run (p + 3) s = .next (s.afterLines ws rest (s.reads ++ rs)) := by
  have hcommit : (s.polled i p rest).commit ws = { s.commit ws with
      status := s.status.accepted, seq := .inflight (encode i), schedule := busRead 0x004 :: rest,
      reads := s.reads ++ List.replicate p s.status.accepted.toWord } := State.commit_withControl s ws _ _ _ _
  rw [finish_ok, hcommit] at hexec
  refine ⟨List.replicate p s.status.accepted.toWord ++ [(doneOk s.status).toWord], ?_⟩
  rw [← List.append_assoc]
  exact run_runLine hq hf hs hexec

/-- A line whose command fails with KEY_SETUP commits nothing and leaves the block idle (60_exceptions.md R203). -/
theorem run_runLine_keySetup {s : State} {i : Instr} {p : Nat} {rest : List Event} (hq : s.seq = .idle)
    (hf : s.status.fault = false) (hs : s.schedule = (ScriptLine.run i p).events ++ rest)
    (hexec : exec i (s.polled i p rest) = .next ((s.polled i p rest).failed .keySetup)) :
    ∃ rs, run (p + 3) s = .next { s with
      status := doneErr 2 s.status, seq := .idle, schedule := rest, reads := rs } := by
  rw [State.failed_of_ne_clock (by decide)] at hexec
  exact ⟨_, run_runLine hq hf hs hexec⟩

/-! ### GEN_TIME and the four sub-blocks -/

/-- The line `run GEN_TIME` with KEYLEN ≤ KEY_MAX (43_orchestration.md R161). -/
theorem run_genTimeLine {s : State} {p : Nat} {rest : List Event} (hq : s.seq = .idle) (hf : s.status.fault = false)
    (hs : s.schedule = (ScriptLine.run .genTime p).events ++ rest) (hk : s.keyLen.toNat ≤ s.cfg.keyMax) :
    ∃ rs, run (p + 3) s = .next (s.afterLines (codeResults s s.time.toNat) rest (s.reads ++ rs)) :=
  run_runLine_ok (ws := codeResults s s.time.toNat) hq hf hs (exec_genTime_ok (s := s.polled .genTime p rest) hk)

/-- The results of GEN_TIME are those of the four sub-blocks, each on what the one before it gives
(43_orchestration.md R163). -/
theorem codeResults_eq_subBlocks (s : State) (t : Word) :
    codeResults s t.toNat =
      [.step (timeStep t)] ++ [.digest (digestOf s (timeStep t).toNat)]
        ++ stageTrunc (digestOf s (timeStep t).toNat)
        ++ stageCode (truncValue (digestOf s (timeStep t).toNat)) := by
  rw [timeStep_toNat, stageTrunc_eq_ofNat, stageCode_eq_ofNat, truncValue_toNat, timeStep_eq_ofNat]
  rfl

theorem State.commit_append (s : State) (ws ws' : List Staged) : s.commit (ws ++ ws') = (s.commit ws).commit ws' :=
  List.foldl_append

theorem State.afterLines_afterLines (s : State) (ws ws' : List Staged) (es es' : List Event) (rs rs' : List Word) :
    (s.afterLines ws es rs).afterLines ws' es' rs' = s.afterLines (ws ++ ws') es' rs' := by
  have hcommit : State.commit (s.afterLines ws es rs) ws' = { s.commit (ws ++ ws') with
      status := doneOk s.status, seq := .idle, schedule := es, reads := rs } := by
    rw [State.commit_append]
    exact State.commit_withControl _ _ _ _ _ _
  rw [State.afterLines, hcommit]
  rfl

/-- One more line after lines that all succeeded. -/
theorem run_nextLine {s : State} {n : Nat} {i : Instr} {p : Nat} {rest : List Event} {ws ws' : List Staged}
    {rs : List Word} (hf : s.status.fault = false)
    (hrun : run n s = .next (s.afterLines ws ((ScriptLine.run i p).events ++ rest) rs))
    (hexec : exec i ((s.afterLines ws ((ScriptLine.run i p).events ++ rest) rs).polled i p rest) =
      finish (.ok ws') ((s.afterLines ws ((ScriptLine.run i p).events ++ rest) rs).polled i p rest)) :
    ∃ rs', run (n + (p + 3)) s = .next (s.afterLines (ws ++ ws') rest rs') := by
  obtain ⟨rs', hline⟩ := run_runLine_ok (s := s.afterLines ws _ rs) rfl hf rfl hexec
  rw [State.afterLines_afterLines] at hline
  exact ⟨_, (run_add hrun _).trans hline⟩

/-- A line that fails after lines that all succeeded keeps what those committed. -/
theorem run_nextLine_keySetup {s : State} {n : Nat} {i : Instr} {p : Nat} {rest : List Event} {ws : List Staged}
    {rs : List Word} (hf : s.status.fault = false)
    (hrun : run n s = .next (s.afterLines ws ((ScriptLine.run i p).events ++ rest) rs))
    (hexec : exec i ((s.afterLines ws ((ScriptLine.run i p).events ++ rest) rs).polled i p rest) =
      .next (((s.afterLines ws ((ScriptLine.run i p).events ++ rest) rs).polled i p rest).failed .keySetup)) :
    ∃ rs', run (n + (p + 3)) s =
      .next { s.commit ws with status := doneErr 2 s.status, seq := .idle, schedule := rest, reads := rs' } := by
  obtain ⟨rs', hline⟩ := run_runLine_keySetup (s := s.afterLines ws _ rs) rfl hf rfl hexec
  exact ⟨rs', (run_add hrun _).trans hline⟩

/-- The body of HMAC rests on STEP and the key alone (41_keyed_hash.md R123). -/
theorem exec_hmac_eq_finish {s u : State} {x : Word} (hcfg : u.cfg = s.cfg) (hlen : u.keyLen = s.keyLen)
    (hkey : u.key = s.key) (hstep : u.step = x) (hk : s.keyLen.toNat ≤ s.cfg.keyMax) :
    exec .hmac u = finish (.ok [.digest (digestOf s x.toNat)]) u := by
  rw [exec_hmac_ok (by rwa [hcfg, hlen]), digestOf, hlen, hkey, hstep]
  rfl

theorem exec_trunc_eq_finish {u : State} {d : Digest} (h : u.digest = d) :
    exec .trunc u = finish (.ok (stageTrunc d)) u := by
  rw [← h]
  exact exec_trunc u

theorem exec_encode_eq_finish {u : State} {v : BitVec 31} (h : u.trunc = v) :
    exec .encode u = finish (.ok (stageCode v)) u := by
  rw [← h]
  exact exec_encode u

/-- The lines of the four sub-blocks in order with KEYLEN ≤ KEY_MAX leave what `run GEN_TIME` leaves
(43_orchestration.md R163). -/
theorem run_subBlockLines {s : State} {p1 p2 p3 p4 : Nat} {rest : List Event} (hq : s.seq = .idle)
    (hf : s.status.fault = false)
    (hs : s.schedule = (ScriptLine.run .step p1).events ++ ((ScriptLine.run .hmac p2).events ++
      ((ScriptLine.run .trunc p3).events ++ ((ScriptLine.run .encode p4).events ++ rest))))
    (hk : s.keyLen.toNat ≤ s.cfg.keyMax) :
    ∃ rs, run (p1 + 3 + (p2 + 3) + (p3 + 3) + (p4 + 3)) s =
      .next (s.afterLines (codeResults s s.time.toNat) rest rs) := by
  obtain ⟨rs1, h1⟩ := run_runLine_ok (ws := [.step (timeStep s.time)]) hq hf hs (exec_step (s.polled _ _ _))
  obtain ⟨rs2, h2⟩ := run_nextLine hf h1 (exec_hmac_eq_finish (s := s) (x := timeStep s.time) rfl rfl rfl rfl hk)
  obtain ⟨rs3, h3⟩ := run_nextLine hf h2 (exec_trunc_eq_finish (d := digestOf s (timeStep s.time).toNat) rfl)
  obtain ⟨rs4, h4⟩ := run_nextLine hf h3
    (exec_encode_eq_finish (v := truncValue (digestOf s (timeStep s.time).toNat)) rfl)
  exact ⟨rs4, by rw [codeResults_eq_subBlocks, h4]⟩

theorem length_runLine (i : Instr) (p : Nat) : (ScriptLine.run i p).events.length = p + 3 := by
  simp [ScriptLine.events, waitEvents]

theorem scriptEvents_cons (l : ScriptLine) (ls : List ScriptLine) :
    scriptEvents (l :: ls) = l.events ++ scriptEvents ls := List.flatMap_cons

theorem scriptEvents_nil : scriptEvents [] = [] := rfl

/-- The schedule that a run starts from does not enter what its lines commit. -/
theorem State.afterLines_withSchedule (s : State) (ws : List Staged) (es es' : List Event) (rs : List Word) :
    State.afterLines { s with schedule := es } ws es' rs = s.afterLines ws es' rs := by
  have hcommit := State.commit_withControl s ws s.status s.seq es s.reads
  rw [State.afterLines, hcommit]
  rfl

/-- Settles O42: within KEY_MAX both scripts leave the results of GEN_TIME (`run_genTimeLine`, `run_subBlockLines`);
above it STEP commits, and HMAC and GEN_TIME are the failed line `run_runLine_keySetup`. -/
theorem compositionOfSubBlocks : Obligations.CompositionOfSubBlocks := by
  rintro s a b p p1 p2 p3 p4 hq hf rfl rfl
  simp only [scriptEvents_cons, scriptEvents_nil, List.length_append, length_runLine, List.length_nil, Nat.add_zero,
    ← Nat.add_assoc]
  generalize hsched : (ScriptLine.run .step p1).events ++ _ = es
  refine ⟨fun hk => ?_, fun hk => ?_⟩
  · obtain ⟨rs, ht⟩ := run_genTimeLine (s := { s with schedule := (ScriptLine.run .genTime p).events ++ [] })
      hq hf rfl hk
    obtain ⟨rs', hu⟩ := run_subBlockLines (s := { s with schedule := es }) (rest := []) hq hf hsched.symm hk
    rw [State.afterLines_withSchedule] at ht hu
    exact ⟨_, _, ht, hu, rfl⟩
  · obtain ⟨rs, ht⟩ := run_runLine_keySetup (s := { s with schedule := (ScriptLine.run .genTime p).events ++ [] })
      hq hf rfl (exec_genTime_keySetup hk)
    obtain ⟨rs1, hu1⟩ := run_runLine_ok (s := { s with schedule := es }) hq hf hsched.symm
      (ws := [.step (timeStep s.time)]) (exec_step (State.polled { s with schedule := es } .step p1 _))
    obtain ⟨rs2, hu⟩ := run_nextLine_keySetup (s := { s with schedule := es }) hf hu1 (exec_hmac_keySetup hk)
    refine ⟨_, _, ht, hu, ?_, ?_⟩
    · rw [← hq]
    · rw [← timeStep_eq_ofNat, ← hq]
      rfl

end Sys2Proof.Machine
end

section
/-! PROOFS. Loading a key and the boot order (30_encoding.md R78, 70_reset_and_hazards.md R242): the bytes that the line
`key` leaves in the array, and the run of the script key; gen_time; readcode to its end (R249). -/

namespace Sys2Proof.Machine

open Sys2Proof.Claims

/-! ### Words in place of bytes -/

theorem length_packWords (bytes : List Byte) : (packWords bytes).length = (bytes.length + 3) / 4 := by
  induction bytes using packWords.induct with
  | case1 b0 b1 b2 b3 bs ih =>
    rw [packWords, List.length_cons, ih]
    simp only [List.length_cons]
    omega
  | case2 | case3 | case4 | case5 => simp [packWords]

/-- The word of the first four bytes has them as its lanes, the missing ones 0 (20_memory.md R54). -/
theorem laneOf_ofLanes_getD (bs : List Byte) {r : Nat} (hr : r < 4) :
    laneOf (ofLanes (bs.getD 0 0) (bs.getD 1 0) (bs.getD 2 0) (bs.getD 3 0)) r = bs.getD r 0 := by
  refine (laneOf_ofLanes #v[bs.getD 0 0, bs.getD 1 0, bs.getD 2 0, bs.getD 3 0] hr).trans ?_
  interval_cases r <;> rfl

theorem laneOf_oneWord {bs : List Byte} (hbs : bs.length ≤ 4) (j : Nat) {r : Nat} (hr : r < 4) :
    laneOf ([ofLanes (bs.getD 0 0) (bs.getD 1 0) (bs.getD 2 0) (bs.getD 3 0)].getD j 0) r =
      bs.getD (4 * j + r) 0 := by
  cases j with
  | zero =>
    rw [Nat.mul_zero, Nat.zero_add]
    exact laneOf_ofLanes_getD bs hr
  | succ j =>
    rw [List.getD_eq_default bs _ (show bs.length ≤ 4 * (j + 1) + r by omega)]
    exact BitVec.eq_of_toNat_eq (by simp [laneOf])

/-- Byte `r` of packed word `j` is byte `4j + r` of the key, and 0 past its end (30_encoding.md R78). -/
theorem laneOf_packWords (bytes : List Byte) (j : Nat) {r : Nat} (hr : r < 4) :
    laneOf ((packWords bytes).getD j 0) r = bytes.getD (4 * j + r) 0 := by
  induction bytes using packWords.induct generalizing j with
  | case1 b0 b1 b2 b3 bs ih =>
    rw [packWords]
    cases j with
    | zero =>
      rw [Nat.mul_zero, Nat.zero_add]
      exact laneOf_ofLanes_getD (b0 :: b1 :: b2 :: b3 :: bs) hr
    | succ j =>
      rw [List.getD_cons_succ, ih j, show 4 * (j + 1) + r = 4 * j + r + 4 by omega]
      rfl
  | case2 b0 b1 b2 => exact laneOf_oneWord (bs := [b0, b1, b2]) (by simp) j hr
  | case3 b0 b1 => exact laneOf_oneWord (bs := [b0, b1]) (by simp) j hr
  | case4 b0 => exact laneOf_oneWord (bs := [b0]) (by simp) j hr
  | case5 => exact BitVec.eq_of_toNat_eq (by simp [laneOf, packWords])

/-! ### Words stored to consecutive key offsets -/

/-- The array after the words are stored to the key words from `k` on; `run_writeWords` ties it to the model. -/
def Memory.storeWords : Memory → Nat → List Word → Memory
  | m, _, [] => m
  | m, k, w :: ws => Memory.storeWords (m.writeWord k w) (k + 1) ws

theorem Memory.storeWords_wf {m : Memory} (hm : m.wf = true) (k : Nat) (ws : List Word) :
    (m.storeWords k ws).wf = true := by
  induction ws generalizing m k with
  | nil => exact hm
  | cons w ws ih => exact ih (writeWord_wf hm k w) (k + 1)

theorem Memory.read_storeWords {m : Memory} (hm : m.wf = true) (k : Nat) (ws : List Word) (i : Nat) :
    (m.storeWords k ws).read i =
      if k ≤ i / 4 ∧ i / 4 < k + ws.length then laneOf (ws.getD (i / 4 - k) 0) (i % 4) else m.read i := by
  induction ws generalizing m k with
  | nil => rw [storeWords, List.length_nil, if_neg (by omega)]
  | cons w ws ih =>
    rw [storeWords, ih (writeWord_wf hm k w), read_writeWord_lanes hm, List.length_cons]
    rcases Nat.lt_trichotomy (i / 4) k with hlt | heq | hgt
    · rw [if_neg (by omega), if_neg (by omega), if_neg (by omega)]
    · rw [if_neg (by omega), if_pos heq, if_pos (by omega), heq, Nat.sub_self, List.getD_cons_zero]
    · obtain ⟨j, hj⟩ := Nat.exists_eq_add_of_lt hgt
      rw [if_neg (show ¬ i / 4 = k by omega), hj, show k + j + 1 - k = j + 1 by omega,
        show k + j + 1 - (k + 1) = j by omega, List.getD_cons_succ]
      exact if_congr (by omega) rfl rfl

/-- A key word of the map (10_state.md R21). -/
theorem regAt_key {c : Config} {k : Nat} (hwin : k < 256) (himp : k < c.keyMax / 4) :
    regAt c (BitVec.ofNat 12 (0x400 + 4 * k)) = .key k := by
  have hk : (0x400 + 4 * k - 0x400) / 4 = k := by omega
  rw [regAt, BitVec.toNat_ofNat, Nat.mod_eq_of_lt (by omega), regAtNat, if_neg (by omega), if_neg (by omega), hk,
    if_pos (by omega)]

theorem step_writeKey {s : State} {k : Nat} {w : Word} {rest : List Event} (hq : s.seq = .idle) (hwin : k < 256)
    (himp : k < s.cfg.keyMax / 4) (hs : s.schedule = busWrite (0x400 + 4 * k) w :: rest) :
    step s = .next { s with schedule := rest, key := s.key.writeWord k w } := by
  have haligned : (BitVec.ofNat 12 (0x400 + 4 * k)).toNat % 4 = 0 := by
    rw [BitVec.toNat_ofNat]
    omega
  rw [step_write haligned hs, regAt_key hwin himp]
  exact congrArg _ (writeInput_idle (s := { s with schedule := rest }) hq)

theorem length_writeWords (base : Nat) (ws : List Word) : (writeWords base ws).length = ws.length := by
  induction ws generalizing base with
  | nil => rfl
  | cons w ws ih => rw [writeWords, List.length_cons, List.length_cons, ih]

/-- Idle writes to consecutive implemented key words (20_memory.md R57). -/
theorem run_writeWords {s : State} {k : Nat} {ws : List Word} {rest : List Event} (hq : s.seq = .idle)
    (hwin : k + ws.length ≤ 256) (himp : k + ws.length ≤ s.cfg.keyMax / 4)
    (hs : s.schedule = writeWords (0x400 + 4 * k) ws ++ rest) :
    run ws.length s = .next { s with schedule := rest, key := s.key.storeWords k ws } := by
  induction ws generalizing s k with
  | nil =>
    obtain rfl : s.schedule = rest := hs
    rfl
  | cons w ws ih =>
    rw [List.length_cons] at hwin himp
    have hstep := step_writeKey (s := s) (k := k) (rest := writeWords (0x400 + 4 * (k + 1)) ws ++ rest) hq (by omega)
      (by omega) hs
    rw [List.length_cons, run_succ _ hstep]
    exact ih (s := { s with schedule := _, key := s.key.writeWord k w }) hq (by omega) (by dsimp only; omega) rfl

/-! ### The line `key` -/

/-- The key array after the line: the bytes, zeros to the end of the last word, and the array as it was from there
on. -/
theorem Memory.read_storeWords_packWords {m : Memory} (hm : m.wf = true) (bytes : List Byte) (i : Nat) :
    (m.storeWords 0 (packWords bytes)).read i =
      if i < (bytes.length + 3) / 4 * 4 then bytes.getD i 0 else m.read i := by
  rw [read_storeWords hm, length_packWords, Nat.sub_zero, laneOf_packWords _ _ (Nat.mod_lt i (by omega)),
    Nat.div_add_mod]
  exact if_congr (by omega) rfl rfl

theorem step_writeKeyLen {s : State} {w : Word} {rest : List Event} (hq : s.seq = .idle)
    (hs : s.schedule = busWrite 0x00C w :: rest) : step s = .next { s with schedule := rest, keyLen := w } :=
  (step_write (off := 0x00C) rfl hs).trans (congrArg _ (writeInput_idle (s := { s with schedule := rest }) hq))

theorem length_keyLine (bytes : List Byte) :
    (ScriptLine.key bytes).events.length = (packWords bytes).length + 1 := by
  rw [ScriptLine.events, List.length_cons, length_writeWords]

/-- The line `key` on an idle block: KEYLEN, then the packed words (30_encoding.md R78). -/
theorem run_keyLine {s : State} {bytes : List Byte} {rest : List Event} (hq : s.seq = .idle) (hc : s.cfg.wf = true)
    (hkey : keyWf s.cfg bytes = true) (hs : s.schedule = (ScriptLine.key bytes).events ++ rest) :
    run (ScriptLine.key bytes).events.length s =
      .next { s with keyLen := BitVec.ofNat 32 bytes.length, key := s.key.storeWords 0 (packWords bytes),
                     schedule := rest } := by
  obtain ⟨h4, -, hmax⟩ := config_wf_iff.1 hc
  have hlen : bytes.length ≤ s.cfg.keyMax := of_decide_eq_true hkey
  have hwords := length_packWords bytes
  rw [length_keyLine, run_succ _ (step_writeKeyLen hq hs)]
  exact run_writeWords (s := { s with schedule := _, keyLen := _ }) hq (by omega) (by dsimp only; omega) rfl

/-- Settles O45: the run is `run_keyLine`, and `Memory.read_storeWords_packWords` says what the array then reads. -/
theorem keyLineLoadsKey : Obligations.KeyLineLoadsKey := by
  intro s bytes rest hinv hq hkey hs
  obtain ⟨hwf, -⟩ := hinv.key
  have hread := Memory.read_storeWords_packWords hwf bytes
  refine ⟨_, run_keyLine hq hinv.cfg hkey hs, Memory.storeWords_wf hwf 0 _, fun i hi => ?_, fun i hi hi' => ?_,
    fun i hi => ?_⟩
  · rw [hread, if_pos (by omega)]
  · rw [hread, if_pos hi', List.getD_eq_default _ _ hi]
  · rw [hread, if_neg (by omega)]

/-! ### The boot order -/

theorem step_writeTime {s : State} {w : Word} {rest : List Event} (hq : s.seq = .idle)
    (hs : s.schedule = busWrite 0x008 w :: rest) : step s = .next { s with schedule := rest, time := w } :=
  (step_write (off := 0x008) rfl hs).trans (congrArg _ (writeInput_idle (s := { s with schedule := rest }) hq))

/-- The line `readcode` reads CODE_LO and CODE_HI (30_encoding.md R78). -/
theorem run_readcode {s : State} {rest : List Event} (hs : s.schedule = ScriptLine.readcode.events ++ rest) :
    run 2 s = .next { s with schedule := rest, reads := s.reads ++ [s.codeLo, s.codeHi.setWidth 32] } := by
  have hlo : step s = .next { s with schedule := busRead 0x024 :: rest, reads := s.reads ++ [s.codeLo] } :=
    step_read (off := 0x020) rfl hs
  rw [run_succ 1 hlo, List.append_cons s.reads s.codeLo [_]]
  exact run_succ 0 (step_read (off := 0x024) rfl rfl)

/-- The line `gen_time t` with KEYLEN ≤ KEY_MAX: TIME is written, and GEN_TIME runs (30_encoding.md R78). -/
theorem run_genTimeAt {s : State} {t : Word} {p : Nat} {rest : List Event} (hq : s.seq = .idle)
    (hf : s.status.fault = false) (hs : s.schedule = (ScriptLine.genTime t p).events ++ rest)
    (hk : s.keyLen.toNat ≤ s.cfg.keyMax) :
    ∃ rs, run (p + 4) s =
      .next (State.afterLines { s with time := t } (codeResults s t.toNat) rest (s.reads ++ rs)) := by
  have hwrite : step s = .next { s with schedule := (ScriptLine.run .genTime p).events ++ rest, time := t } :=
    step_writeTime hq hs
  obtain ⟨rs, hrun⟩ := run_genTimeLine (s := { s with schedule := _, time := t }) hq hf rfl hk
  rw [State.afterLines_withSchedule (s := { s with time := t })] at hrun
  exact ⟨rs, (run_succ (p + 3) hwrite).trans hrun⟩

theorem length_genTimeLine (t : Word) (p : Nat) : (ScriptLine.genTime t p).events.length = p + 4 := by
  simp [ScriptLine.events, waitEvents]

theorem codeHiNat_lt (v : Nat) : codeHiNat v < 256 := by
  have h := alpha_toNat ⟨digitNat v 4, digitNat_lt v 4⟩
  rw [codeHiNat, ← h]
  exact BitVec.isLt _

/-- `gen_time t` and then `readcode`: the words that the host reads last are the code (70_reset_and_hazards.md R242
steps 4 to 6). -/
theorem run_genTime_readcode {s : State} {t : Word} {p : Nat} (hq : s.seq = .idle) (hf : s.status.fault = false)
    (hs : s.schedule = (ScriptLine.genTime t p).events ++ ScriptLine.readcode.events)
    (hk : s.keyLen.toNat ≤ s.cfg.keyMax) :
    ∃ u polls, run (p + 4 + 2) s = .next u ∧ u.seq = .idle ∧ u.status = doneOk s.status ∧
      u.reads = s.reads ++ polls ++ [BitVec.ofNat 32 (codeLoNat (valueOf s t.toNat)),
        BitVec.ofNat 32 (codeHiNat (valueOf s t.toNat))] := by
  obtain ⟨rs, hgen⟩ := run_genTimeAt hq hf hs hk
  have hread := run_readcode (s := State.afterLines { s with time := t } (codeResults s t.toNat)
    ScriptLine.readcode.events (s.reads ++ rs)) (rest := []) rfl
  have hhi : (BitVec.ofNat 8 (codeHiNat (valueOf s t.toNat))).setWidth 32 =
      BitVec.ofNat 32 (codeHiNat (valueOf s t.toNat)) := by
    rw [← BitVec.ofNat_toNat, BitVec.toNat_ofNat, Nat.mod_eq_of_lt (codeHiNat_lt _)]
  refine ⟨_, rs, (run_add hgen 2).trans hread, rfl, rfl, ?_⟩
  rw [← hhi]
  rfl

/-- A step uses up one move, so `n` steps use up the first `n`. -/
theorem run_schedule {n : Nat} {s t : State} (h : run n s = .next t) : t.schedule = s.schedule.drop n := by
  induction n generalizing s with
  | zero => rw [run_zero_eq_next.1 h, List.drop_zero]
  | succ n ih =>
    obtain ⟨u, hu, hrun⟩ := run_succ_eq_next.1 h
    rw [ih hrun, step_schedule hu, List.drop_tail]

/-- A run whose last move is the host's ends where the schedule does, if the block is then idle with FAULT = 0: before
that the host is not done (70_reset_and_hazards.md R249). -/
theorem final_of_run_all {s t : State} {es : List Event} {e : Event} (hs : s.schedule = es ++ [e])
    (he : e.byHost = true) (hrun : run s.schedule.length s = .next t) (hq : t.seq = .idle)
    (hf : t.status.fault = false) : s.final t := by
  have hdone : t.schedule = [] := by rw [run_schedule hrun, List.drop_length]
  refine final_iff_endsAfter.2 ⟨_, hrun, ⟨by simp [hdone], hq, hf⟩, fun k u hk hu => ?_⟩
  rw [hs, List.length_append, List.length_singleton] at hk
  have hmem : e ∈ u.schedule := by
    rw [run_schedule hu, hs, List.drop_append_of_le_length (by omega)]
    simp
  rw [← settled_eq_false_iff]
  exact not_settled_of_host hmem he

/-- The key that a loaded array gives HMAC is the bytes loaded (41_keyed_hash.md R122). -/
theorem keyOf_storeWords_packWords {m : Memory} (hm : m.wf = true) (bytes : List Byte) :
    keyOf (m.storeWords 0 (packWords bytes)) bytes.length = bytes := by
  refine List.ext_getElem (by simp [keyOf]) fun i _ hi => ?_
  have hread := Memory.read_storeWords_packWords hm bytes i
  rw [if_pos (by omega), List.getD_eq_getElem bytes 0 hi] at hread
  simp [keyOf, hread]

/-- Settles O46: the run is `run_keyLine` and then `run_genTime_readcode`, with the loaded bytes as the key
(`keyOf_storeWords_packWords`); its last move is a read of the host, so it ends there (`final_of_run_all`). -/
theorem bootSequenceGivesCode : Obligations.BootSequenceGivesCode := by
  intro s bytes time p hinv hq hf hkey hs
  obtain ⟨-, -, hmax⟩ := config_wf_iff.1 hinv.cfg
  obtain ⟨hwf, -⟩ := hinv.key
  have hbytes : bytes.length ≤ s.cfg.keyMax := of_decide_eq_true hkey
  have hlen : (BitVec.ofNat 32 bytes.length).toNat = bytes.length := by
    rw [BitVec.toNat_ofNat, Nat.mod_eq_of_lt (by omega)]
  have hlines : s.schedule = (ScriptLine.key bytes).events ++
      ((ScriptLine.genTime time p).events ++ ScriptLine.readcode.events) := by
    rw [hs, scriptEvents_cons, scriptEvents_cons, scriptEvents_cons, scriptEvents_nil, List.append_nil]
  have hlength : s.schedule.length = (ScriptLine.key bytes).events.length + (p + 4 + 2) := by
    rw [hlines, List.length_append, List.length_append, length_genTimeLine]
    rfl
  have hlast : s.schedule = ((ScriptLine.key bytes).events ++ ((ScriptLine.genTime time p).events ++ [busRead 0x020]))
      ++ [busRead 0x024] := by
    rw [hlines, List.append_assoc, List.append_assoc]
    rfl
  obtain ⟨u, polls, hrun, hidle, hstatus, hreads⟩ := run_genTime_readcode (t := time) (p := p)
    (s := { s with keyLen := BitVec.ofNat 32 bytes.length, key := s.key.storeWords 0 (packWords bytes),
                   schedule := (ScriptLine.genTime time p).events ++ ScriptLine.readcode.events })
    hq hf rfl (hlen.trans_le hbytes)
  have hall : run s.schedule.length s = .next u := by
    rw [hlength, run_add (run_keyLine hq hinv.cfg hkey hlines), hrun]
  refine ⟨u, hall, final_of_run_all hlast rfl hall hidle (by rw [hstatus]; exact hf), by rw [hstatus]; rfl, polls, ?_⟩
  rw [hreads, valueOf, digestOf]
  dsimp only
  rw [hlen, keyOf_storeWords_packWords hwf]

end Sys2Proof.Machine
end
